-- ==== Sys2Proof/Word.lean ====
section
/-! DEFINITION. Word types of the block (00_scope.md rules R6, R7): bit 0 is the least significant bit. -/

namespace Sys2Proof

/-- A 32-bit register image, operand or command word. -/
abbrev Word := BitVec 32

/-- A 16-bit value: MODE's and BRG's stored bits, a result VALUE, a 2-byte unit in memory. -/
abbrev Half := BitVec 16

/-- One byte of buffer memory. -/
abbrev Byte := BitVec 8

/-- A data unit on the line: 9 bits, bit 8 being 0 in the 8-bit mode. -/
abbrev Unit9 := BitVec 9

end Sys2Proof
end

