-- ==== Sys2Proof/Config.lean ====
section
/-! DEFINITION. What is fixed for one machine and what the spec leaves open (00_scope.md rule R6): the
parameters of the block and its draws. `Params` is the list of them as one argument, so that every
operation of the machine can be read, tested and proved for any choice; `Config.params` is the choice the
machine runs with, each part an opaque constant, so nothing can be proved about its value. -/

namespace Sys2Proof

/-- READ_PRECLEAR (R6, D18): when READ runs ErrorClear first. -/
inductive Preclear where
  | always
  | onError
  deriving DecidableEq, Repr, Inhabited

/-- ERR_FLAG_VIEW (R6, R43, D28): the received units FERR and PERR reflect. -/
inductive ErrView where
  | head
  | any
  deriving DecidableEq, Repr, Inhabited

/-- What a flush does this time (rules R85, R86): `draw {keep, flush}` takes one of these. -/
inductive FlushChoice where
  | keep
  | flush
  deriving DecidableEq, Repr, Inhabited

/-- OERR_CLEAR_FLUSH and DISABLE_FLUSH (R6, D30, D31). -/
inductive FlushPolicy where
  | draw
  | keep
  | flush
  deriving DecidableEq, Repr, Inhabited

/-- The parameters of rule R6 and the sequencer's draws (rule R9), each draw a function of the number of
draws taken before it, so that every draw is fresh. -/
structure Params where
  /-- INIT_BRG: the divisor INITIALIZE writes (R224). -/
  initBrg : Half
  /-- CLK_DEFAULT: what the clock port answers (R31). -/
  clkDefault : Word
  /-- RX_DEPTH: receive FIFO capacity (R50). -/
  rxDepth : Nat
  rxDepth_pos : 1 ≤ rxDepth
  /-- TX_DEPTH: transmit FIFO capacity (R53). -/
  txDepth : Nat
  txDepth_pos : 1 ≤ txDepth
  /-- UART_BASE: register-bus address of the peripheral's register block (R35). -/
  uartBase : Nat
  /-- HOST_BASE: host-bus address of the command port (R25). -/
  hostBase : Nat
  /-- MemAdmit(a, n): the buffer memory admits an n-byte access at a (R76). -/
  memAdmit : Nat → Nat → Bool
  /-- READ_PRECLEAR (R150). -/
  readPreclear : Preclear
  /-- ERR_FLAG_VIEW (R43). -/
  errView : ErrView
  /-- OERR_CLEAR_FLUSH (R86). -/
  oerrClearFlush : FlushPolicy
  /-- DISABLE_FLUSH (R85). -/
  disableFlush : FlushPolicy
  /-- AUTOBAUD_HW: the peripheral may complete autobaud on its own (R203). -/
  autobaudHw : Bool
  /-- The draw of STA.RIDLE at a read (R46). -/
  drawRidle : Nat → Bool
  /-- The 9-bit draw of an RXREG read of an empty FIFO (R80). -/
  drawUnit : Nat → Unit9
  /-- The 32-bit draw of a read of a CLR, SET or INV register (R80). -/
  drawWord : Nat → Word
  /-- The draw {keep, flush} of rules R85 and R86. -/
  drawFlush : Nat → FlushChoice

/-! The machine's own choice: opaque constants, quantified over in effect. -/

opaque Config.initBrg : Half
opaque Config.clkDefault : Word
/-- RX_DEPTH less one: the depth itself is at least 1. -/
opaque Config.rxDepthPred : Nat
/-- TX_DEPTH less one. -/
opaque Config.txDepthPred : Nat
opaque Config.uartBase : Nat
opaque Config.hostBase : Nat
opaque Config.memAdmit : Nat → Nat → Bool
opaque Config.readPreclear : Preclear
opaque Config.errView : ErrView
opaque Config.oerrClearFlush : FlushPolicy
opaque Config.disableFlush : FlushPolicy
opaque Config.autobaudHw : Bool
opaque Config.drawRidle : Nat → Bool
opaque Config.drawUnit : Nat → Unit9
opaque Config.drawWord : Nat → Word
opaque Config.drawFlush : Nat → FlushChoice

/-- The parameters the machine runs with. -/
def Config.params : Params where
  initBrg := Config.initBrg
  clkDefault := Config.clkDefault
  rxDepth := Config.rxDepthPred + 1
  rxDepth_pos := Nat.le_add_left 1 _
  txDepth := Config.txDepthPred + 1
  txDepth_pos := Nat.le_add_left 1 _
  uartBase := Config.uartBase
  hostBase := Config.hostBase
  memAdmit := Config.memAdmit
  readPreclear := Config.readPreclear
  errView := Config.errView
  oerrClearFlush := Config.oerrClearFlush
  disableFlush := Config.disableFlush
  autobaudHw := Config.autobaudHw
  drawRidle := Config.drawRidle
  drawUnit := Config.drawUnit
  drawWord := Config.drawWord
  drawFlush := Config.drawFlush

/-- OVS: the oversampling factor the divisor formula uses (R6, R123, C7). -/
def Config.ovs : Nat := 4

/-- The largest divisor BRG_W = 16 bits hold (R6, R123). -/
def Config.brgMax : Nat := 65535

end Sys2Proof
end

