-- ==== Sys2Proof/Syntax.lean ====
section
/-! DEFINITION. The commands of the UARTSEQ command set, version 1 (30_encoding.md rules R100-R108), one
constructor for each row of spec/opcode_table.json, and the assembler lines of rules R112 and R113 as
abstract syntax. A command's in-word operands are its constructor's arguments; OPA and OPB are registers
(rule R23), so they stand in the state. -/

namespace Sys2Proof

/-- A decoded command word. -/
inductive Instr where
  /-- INITIALIZE, format N, opcode 0x0 (R120). -/
  | initialise
  /-- SERIAL_SETUP, format S, opcode 0x1 (R103, R122): CP configuration present, WD 9-bit width, PAR the
  parity field, SB two stop bits. -/
  | serialSetup (cp : Bool) (wd : Bool) (par : BitVec 2) (sb : Bool)
  /-- ERROR_GET, format N, opcode 0x2 (R140). -/
  | errorGet
  /-- READ, format B, opcode 0x3 (R150). -/
  | read
  /-- WRITE, format B, opcode 0x4 (R155). -/
  | write
  /-- WRITE_BYTE, format D, opcode 0x5 (R170). -/
  | writeByte
  /-- READ_BYTE, format N, opcode 0x6 (R172). -/
  | readByte
  /-- TX_READY, format N, opcode 0x7 (R174). -/
  | txReady
  /-- RX_READY, format N, opcode 0x8 (R175). -/
  | rxReady
  /-- TX_COMPLETE, format N, opcode 0x9 (R176). -/
  | txComplete
  /-- AUTOBAUD_QUERY, format N, opcode 0xA (R180). -/
  | autobaudQuery
  /-- AUTOBAUD_SET, format E, opcode 0xB (R106, R181). -/
  | autobaudSet (en : Bool)
  deriving DecidableEq, Repr

/-- Parity of a line configuration (R103). -/
inductive Parity where
  | none
  | even
  | odd
  deriving DecidableEq, Repr

/-- The logical configuration SERIAL_SETUP's or MODE's fields stand for (R108, R124). -/
structure LineConfig where
  dataWidth : Nat
  parity : Parity
  stopBits : Nat
  deriving DecidableEq, Repr

/-- `cfg` of the assembler (R112): NULL, or width, parity and stop bits. -/
inductive SetupCfg where
  | null
  | line (nineBit : Bool) (parity : Parity) (twoStop : Bool)
  deriving DecidableEq, Repr

/-- One line of the assembler (R112) and the two pseudo-instructions (R113). -/
inductive AsmLine where
  | initialise
  | serialSetup (cfg : SetupCfg) (baud clk : Word)
  | errorGet
  | read (addr count : Word)
  | write (addr count : Word)
  | writeByte (data : Word)
  | readByte
  | txReady
  | rxReady
  | txComplete
  | autobaudQuery
  | autobaudSet (en : Bool)
  /-- `SERIAL_SETUP <cfg>, <baud>`: the default clock (R113). -/
  | serialSetupDefaultClock (cfg : SetupCfg) (baud : Word)
  /-- `AUTOBAUD_ENABLE` (R113). -/
  | autobaudEnable
  deriving DecidableEq, Repr

end Sys2Proof
end

