-- ==== Sys2Proof/Machine/State.lean ====
section
/-! DEFINITION. The machine's state as plain data (10_state.md), the names its parts use, the reasons a
step can stop, and the state after reset (10_state.md rule R60). -/

namespace Sys2Proof.Machine

/-- The micro-program phase `ph` (R22): IDLE, FAULTED or a label `X.n` of files 40 to 44. -/
inductive Phase where
  | idle | faulted
  /-- INITIALIZE (R120). -/
  | i1 | i2 | i3 | i4
  /-- SERIAL_SETUP (R122). -/
  | s1 | s2 | s3 | s4 | s5 | s6 | s7 | s8 | s9 | s10
  /-- ERROR_GET (R140). -/
  | g1 | g2
  /-- ErrorClear, inside ERROR_GET and READ (R141). -/
  | ec1 | ec2 | ec3 | ec4
  /-- READ (R150). -/
  | r0 | r1 | r2 | r3 | r4 | r5 | r6
  /-- WRITE (R155). -/
  | w0 | w1 | w2 | w3 | w4 | w5
  /-- WRITE_BYTE (R170). -/
  | wb1 | wb2
  /-- READ_BYTE (R172). -/
  | rb1
  /-- The one step of a status predicate (R178). -/
  | p1
  /-- AUTOBAUD_QUERY (R180). -/
  | aq1
  /-- AUTOBAUD_SET (R181). -/
  | as1
  deriving DecidableEq, Repr

/-- RES.STATUS (R26). -/
inductive Status where
  | none | ok | fail | illegal
  deriving DecidableEq, Repr

/-- RES.REASON (R26). -/
inductive Reason where
  | none | invalidConfig | invalidCombination | baudUnattainable | nullBuffer | lineError | illegalEncoding
  deriving DecidableEq, Repr

/-- The spec's fault kinds (R28, R192): each sets a bit of FAULT and makes `ph` FAULTED, a state the run
goes on from (rule R196), so none of them ends a step with `Outcome.fault`. -/
inductive FaultKind where
  /-- Raised by a host write to CMD while a command is in progress (R211). -/
  | cmdWhileBusy
  /-- Raised by a 2-byte buffer access at an odd address (R75). -/
  | misaligned
  /-- Raised by a buffer access the memory does not admit (R76). -/
  | memRefused
  /-- Raised by a register write that clears MODE.ABAUD while MODE.ON = 1 (R83). -/
  | abaudCleared
  /-- Raised by a TXREG write while the transmit FIFO is full (R84). -/
  | txOverflow
  /-- Raised by a write to BRG while ON = 1, or a MODE write changing PDSEL, STSEL or BRGH with ON
  staying 1 (R83). -/
  | liveReconfig
  /-- Raised by a host write to the buffer of a READ or WRITE in progress (R212). -/
  | hostBufferWrite
  deriving DecidableEq, Repr

/-- The registers of the peripheral's block (R35). -/
inductive Reg where
  | mode | modeClr | modeSet | modeInv
  | sta | staClr | staSet | staInv
  | txreg | rxreg | brg
  deriving DecidableEq, Repr

/-- An entry of the receive FIFO (R50). -/
structure RxUnit where
  data : Unit9
  ferr : Bool
  perr : Bool
  deriving DecidableEq, Repr

/-- A unit in TSR or on LINE_OUT with the configuration in effect when it entered TSR (R53, R201). -/
structure TxRecord where
  data : Unit9
  pdsel : BitVec 2
  stsel : Bool
  brgh : Bool
  brg : Half
  deriving DecidableEq, Repr

/-- The line side's events with their draws (R200-R203). -/
inductive LineEvent where
  | rx (data : Unit9) (ferr perr : Bool)
  | load
  | done
  | autobaud (brg : Half)
  deriving DecidableEq, Repr

/-- What the host can do in one step: a 32-bit access at an offset from HOST_BASE (R25), an access to one byte
of buffer memory (R72, R212), or the read of STAT by which a host program waits for BUSY = 0 (R112). -/
inductive HostAction where
  | writePort (off : Nat) (v : Word)
  | readPort (off : Nat)
  | writeMem (addr : Word) (v : Byte)
  | readMem (addr : Word)
  | pollBusy
  deriving DecidableEq, Repr

/-- One agent's step to come (R10, R20, R204): the sequencer's, the line side's, the host's, or the
reset signal (R220). The MODEL's own: it says which agent steps next. -/
inductive Turn where
  | sequencer
  | line (e : LineEvent)
  | host (a : HostAction)
  | reset
  deriving DecidableEq, Repr

/-- The whole state: the sequencer (R22-R24), the host port (R25-R29), the peripheral (R36-R53), buffer
memory (R70), and the model's own schedule and draw counter. -/
structure State where
  /-- The phase (R22). -/
  ph : Phase
  /-- Latched command word and operands (R23). -/
  cmdL : Word
  opaL : Word
  opbL : Word
  /-- Units processed by READ or WRITE; the host reads it as XCNT (R24, R29). -/
  k : Word
  /-- Unit size in bytes (R24). -/
  w : BitVec 2
  /-- Snapshot of UTXEN, UTXBRK, URXEN (R24). -/
  snap : Word
  /-- Image of OERR, FERR, PERR (R24). -/
  e : Word
  /-- Resolved source clock frequency (R24). -/
  clk : Word
  /-- Computed baud divisor (R24). -/
  d : Half
  /-- A register image or unit carried to the next step (R24). -/
  t : Word
  /-- Host-port registers CMD, OPA, OPB (R25), RES (R26), FAULT (R28). STAT and XCNT are views. -/
  cmd : Word
  opa : Word
  opb : Word
  res : Word
  fault : Word
  /-- MODE bits 15:0; bits 31:16 are unimplemented (R36-R40). -/
  mode : Half
  /-- STA.OERR (R42). -/
  oerr : Bool
  /-- STA.UTXEN, STA.UTXBRK, STA.URXEN (R45). -/
  utxen : Bool
  utxbrk : Bool
  urxen : Bool
  /-- STA OTHER, bits 7:5 and 24:13 (R46). -/
  staLo : BitVec 3
  staHi : BitVec 12
  /-- BRG bits 15:0 (R48). -/
  brg : Half
  /-- Receive FIFO, oldest first (R50). -/
  rxf : List RxUnit
  /-- Transmit FIFO, oldest first (R53). -/
  txf : List Unit9
  /-- Transmit shift register: idle, or one unit (R53). -/
  tsr : Option TxRecord
  /-- Units sent on the line, oldest first (R53). -/
  lineOut : List TxRecord
  /-- Buffer memory (R70, R72): addresses rising, no entry equal to what an unlisted byte reads as. -/
  mem : List Host.Cell
  /-- The MODEL's own: the agents' steps to come, next first; when it is empty the sequencer steps. -/
  turns : List Turn
  /-- The MODEL's own: draws taken so far (R9 `draw`). -/
  draws : Nat
  deriving DecidableEq, Repr

/-- The reasons a step stops. All are SAFE: each is for a combination no rule gives a step to and no run
from reset reaches (the invariant `Safety.Inv` rules them out). The spec's own faults are `FaultKind`. -/
inductive Fault where
  /-- Raised by every meaning: `ph` is a label of another command's micro-program, or no label. Safe. -/
  | strayPhase
  /-- Raised by READ at R.6 and WRITE at W.4: `w` is neither 1 nor 2 (R24). Safe. -/
  | strayWidth
  /-- Raised by SERIAL_SETUP at S.3: a zero baud rate, outside the calculator's domain (R123). Safe. -/
  | zeroBaud
  deriving DecidableEq, Repr

/-- The reasons a step is refused. -/
inductive Refusal where
  /-- Answered by `exec` for an instruction that has no meaning yet; no arm does. Safe. -/
  | notModelled (mnemonic : String)
  /-- Raised by the sequencer's turn: `ph` is a label and the latched word is no command (R110), which
  acceptance never leaves. Safe. -/
  | latchedWordIllegal
  /-- Raised by SERIAL_SETUP called with CP = 1 and PAR = 0b11, which no word decodes to (R109). Safe. -/
  | illFormedCommand
  deriving DecidableEq, Repr

/-- The state right after power-on reset (R60): every register at the value R60 states, FIFOs empty, TSR
idle, LINE_OUT empty, no byte of memory listed; the schedule empty and no draw taken (the model's own). -/
def State.reset : State where
  ph := .idle
  cmdL := 0
  opaL := 0
  opbL := 0
  k := 0
  w := 0
  snap := 0
  e := 0
  clk := 0
  d := 0
  t := 0
  cmd := 0
  opa := 0
  opb := 0
  res := 0
  fault := 0
  mode := 0
  oerr := false
  utxen := false
  utxbrk := false
  urxen := false
  staLo := 0
  staHi := 0
  brg := 0
  rxf := []
  txf := []
  tsr := none
  lineOut := []
  mem := []
  turns := []
  draws := 0

end Sys2Proof.Machine
end

