-- ==== Sys2Proof/Machine/Flags.lean ====
section
/-! DEFINITION. Fields and flags: the masks (10_state.md rule R47), MODE's fields (R36-R39), STA's flags
and image (R41-R46, 20_memory.md rule R80), STAT and FAULT (R27, R28). -/

namespace Sys2Proof.Machine

/-! ## Masks (R47) -/

def mOn : Word := 0x00008000#32
def mAbaud : Word := 0x00000020#32
def mBrgh : Word := 0x00000008#32
def mPdsel : Word := 0x00000006#32
def mStsel : Word := 0x00000001#32
def sUrxda : Word := 0x00000001#32
def sOerr : Word := 0x00000002#32
def sFerr : Word := 0x00000004#32
def sPerr : Word := 0x00000008#32
/-- OERR, FERR, PERR. -/
def sErr : Word := 0x0000000E#32
def sTrmt : Word := 0x00000100#32
def sUtxbf : Word := 0x00000200#32
def sUtxen : Word := 0x00000400#32
def sUtxbrk : Word := 0x00000800#32
def sUrxen : Word := 0x00001000#32
/-- UTXEN, UTXBRK, URXEN. -/
def sKeep : Word := 0x00001C00#32

/-! ## MODE's fields, of any image of MODE (R36-R39) -/

/-- MODE.ON, bit 15 (R36). -/
def modeOn {n : Nat} (m : BitVec n) : Bool := m.getLsbD 15

/-- MODE.ABAUD, bit 5 (R37). -/
def modeAbaud {n : Nat} (m : BitVec n) : Bool := m.getLsbD 5

/-- MODE.BRGH, bit 3 (R38). -/
def modeBrgh {n : Nat} (m : BitVec n) : Bool := m.getLsbD 3

/-- MODE.PDSEL, bits 2:1 (R39). -/
def modePdsel {n : Nat} (m : BitVec n) : BitVec 2 := m.extractLsb' 1 2

/-- MODE.STSEL, bit 0 (R39). -/
def modeStsel {n : Nat} (m : BitVec n) : Bool := m.getLsbD 0

/-- What a read of MODE returns: bits 31:16 read 0 (R40, R80). -/
def modeImage (s : State) : Word := s.mode.setWidth 32

/-- What a read of BRG returns: bits 31:16 read 0 (R48, R80). -/
def brgImage (s : State) : Word := s.brg.setWidth 32

/-! ## STA's flags -/

/-- URXDA: the receive FIFO holds at least one unit (R41). -/
def urxda (s : State) : Bool := !s.rxf.isEmpty

/-- FERR in the view of ERR_FLAG_VIEW (R43). -/
def ferr (P : Params) (s : State) : Bool :=
  match P.errView with
  | .head => match s.rxf with
    | [] => false
    | u :: _ => u.ferr
  | .any => s.rxf.any RxUnit.ferr

/-- PERR in the view of ERR_FLAG_VIEW (R43). -/
def perr (P : Params) (s : State) : Bool :=
  match P.errView with
  | .head => match s.rxf with
    | [] => false
    | u :: _ => u.perr
  | .any => s.rxf.any RxUnit.perr

/-- TRMT: the transmit FIFO is empty and the shift register idle (R44). -/
def trmt (s : State) : Bool := s.txf.isEmpty && s.tsr.isNone

/-- UTXBF: the transmit FIFO holds TX_DEPTH units (R44). -/
def utxbf (P : Params) (s : State) : Bool := s.txf.length == P.txDepth

/-- STA as a read returns it, RIDLE being the given draw (R80): bits 31:25 are 0. -/
def staImage (P : Params) (s : State) (ridle : Bool) : Word :=
  0#7 ++ s.staHi ++ BitVec.ofBool s.urxen ++ BitVec.ofBool s.utxbrk ++ BitVec.ofBool s.utxen ++
    BitVec.ofBool (utxbf P s) ++ BitVec.ofBool (trmt s) ++ s.staLo ++ BitVec.ofBool ridle ++
    BitVec.ofBool (perr P s) ++ BitVec.ofBool (ferr P s) ++ BitVec.ofBool s.oerr ++ BitVec.ofBool (urxda s)

/-! ## The host port's flags -/

/-- BUSY: `ph` is not IDLE; it is 1 in FAULTED too (R27). -/
def busy (s : State) : Bool := s.ph != .idle

/-- FAULTED: `ph` is FAULTED (R27). -/
def faultedFlag (s : State) : Bool := s.ph == .faulted

/-- STAT (R27). -/
def statReg (s : State) : Word := 0#30 ++ BitVec.ofBool (faultedFlag s) ++ BitVec.ofBool (busy s)

/-- XCNT is the working register `k` (R29). -/
def xcntReg (s : State) : Word := s.k

/-- The FAULT bit of a kind (R28). -/
def FaultKind.bit : FaultKind → Nat
  | .cmdWhileBusy => 0
  | .misaligned => 1
  | .memRefused => 2
  | .abaudCleared => 3
  | .txOverflow => 4
  | .liveReconfig => 5
  | .hostBufferWrite => 6

/-- FAULT with only that kind's bit set. -/
def FaultKind.mask (kind : FaultKind) : Word := BitVec.twoPow 32 kind.bit

/-! ## RES (R26) -/

/-- RES.STATUS's code. -/
def Status.code : Status → BitVec 2
  | .none => 0
  | .ok => 1
  | .fail => 2
  | .illegal => 3

/-- RES.REASON's code. -/
def Reason.code : Reason → BitVec 4
  | .none => 0
  | .invalidConfig => 1
  | .invalidCombination => 2
  | .baudUnattainable => 3
  | .nullBuffer => 4
  | .lineError => 5
  | .illegalEncoding => 6

/-- RES: VALUE 31:16, REASON 7:4, STATUS 1:0, the rest 0. -/
def resWord (status : Status) (reason : Reason) (value : Half) : Word :=
  value ++ 0#8 ++ reason.code ++ 0#2 ++ status.code

/-- A flag as a result VALUE: `zext_16` of one bit. -/
def flagValue (b : Bool) : Half := (BitVec.ofBool b).setWidth 16

end Sys2Proof.Machine
end

