-- ==== Sys2Proof/Machine/Operands.lean ====
section
/-! DEFINITION. Operand forms: a line configuration's MODE fields and back (40_configuration.md rules R121,
R124), the unit width and the address of a unit (10_state.md R39, 42_transfer.md R157), a buffer's range
(20_memory.md R72), and the baud-rate divisor calculator (R123). -/

namespace Sys2Proof.Machine

/-- PDSEL of a line configuration (R121). -/
def pdselNew (wd : Bool) (par : BitVec 2) : BitVec 2 := if wd then 0b11#2 else par

/-- S.7's new MODE image: PDSEL and STSEL replaced, every other bit as read (R122). -/
def setupMode (t : Word) (wd : Bool) (par : BitVec 2) (sb : Bool) : Word :=
  (t &&& ~~~(mPdsel ||| mStsel)) ||| ((pdselNew wd par).setWidth 32 <<< 1) ||| (BitVec.ofBool sb).setWidth 32

/-- INIT_MODE (R120): BRGH = INIT_BRGH = 1, everything else 0. -/
def initMode : Word := 0x00000008#32

/-- The unit size in bytes a MODE image sets: 2 when PDSEL = 0b11, else 1 (R39). -/
def unitSize {n : Nat} (m : BitVec n) : BitVec 2 := if modePdsel m = 0b11#2 then 2 else 1

/-- The address of unit `k` of the latched buffer, not wrapped (R76, R157). -/
def unitAddr (s : State) : Nat := s.opaL.toNat + s.w.toNat * s.k.toNat

/-- A 9-bit unit as TXREG keeps it of a written word (R84): 9 bits in 9-bit mode, else 8. -/
def keptUnit {n : Nat} (mode : BitVec n) (v : Word) : Unit9 :=
  if modePdsel mode = 0b11#2 then v.extractLsb' 0 9 else (v.extractLsb' 0 8).setWidth 9

/-- `BaudDiv`'s quotient (R123), truncating, on integers. -/
def baudQuotient (clk baud : Nat) : Nat := (clk / Config.ovs + baud / 2) / baud

/-- `BaudDiv` (R123): whether the divisor is in range, and the divisor. -/
def baudDiv (clk baud : Nat) : Bool × Int :=
  let dv : Int := (baudQuotient clk baud : Int) - 1
  (decide (0 ≤ dv ∧ dv ≤ (Config.brgMax : Int)), dv)

/-- The bit rate's denominator (R48): the rate is the clock over 4 × (BRG + 1) with BRGH = 1 and over
16 × (BRG + 1) with BRGH = 0. -/
def rateDenominator (mode brg : Half) : Nat :=
  (if modeBrgh mode then Config.ovs else 16) * (brg.toNat + 1)

/-- Reading MODE back (R124). -/
def lineConfigOf (mode : Half) : LineConfig where
  dataWidth := if modePdsel mode = 0b11#2 then 9 else 8
  parity := if modePdsel mode = 0b01#2 then .even else if modePdsel mode = 0b10#2 then .odd else .none
  stopBits := if modeStsel mode then 2 else 1

/-- The logical configuration a command word's fields stand for (R108). -/
def lineConfigOfFields (wd : Bool) (par : BitVec 2) (sb : Bool) : LineConfig where
  dataWidth := if wd then 9 else 8
  parity := if par = 0b01#2 then .even else if par = 0b10#2 then .odd else .none
  stopBits := if sb then 2 else 1

/-- The range of `size`-byte units a READ or WRITE owns, `[OPA_L, OPA_L + size × OPB_L - 1]` (R72, R212). -/
def inBuffer (s : State) (size a : Nat) : Bool :=
  decide (s.opaL.toNat ≤ a ∧ a < s.opaL.toNat + size * s.opbL.toNat)

end Sys2Proof.Machine
end

