-- ==== Sys2Proof/Machine/Ops.lean ====
section
/-! DEFINITION. The named operations: buffer memory (20_memory.md rules R73-R77), the register bus (R80-R86),
`finish` and `raise Fault` (00_scope.md rule R9, 60_exceptions.md rule R196), the clock port (10_state.md rule
R31), reset (70_reset_and_hazards.md rule R220). -/

namespace Sys2Proof.Machine

/-! ## Buffer memory -/

/-- What a byte that nothing has written reads as: DESIGN CHOICE, UNSAFE (notes/assumptions/6.md). The spec
says only that buffer memory is not reset (R60). -/
def Memory.unlisted : Byte := 0

/-- The byte at an address. -/
def Memory.read : List Host.Cell → Nat → Byte
  | [], _ => Memory.unlisted
  | (b, v) :: rest, a => if b = a then v else Memory.read rest a

/-- Memory with one byte written, in the canonical form. -/
def Memory.write : List Host.Cell → Nat → Byte → List Host.Cell
  | [], a, v => if v = Memory.unlisted then [] else [(a, v)]
  | (b, x) :: rest, a, v =>
    if a < b then (if v = Memory.unlisted then (b, x) :: rest else (a, v) :: (b, x) :: rest)
    else if a = b then (if v = Memory.unlisted then rest else (a, v) :: rest)
    else (b, x) :: Memory.write rest a v

/-- The canonical form: addresses strictly rising and below 2^32, no entry equal to an unlisted byte. -/
abbrev Memory.wf (m : List Host.Cell) : Prop :=
  m.Pairwise (fun x y => x.1 < y.1) ∧ ∀ c ∈ m, c.1 < 2 ^ 32 ∧ c.2 ≠ Memory.unlisted

/-- The checks of an n-byte access at `addr`, n being 1 or 2: alignment (R75), then admission (R76). -/
def memCheck (P : Params) (addr n : Nat) : Option FaultKind :=
  if n = 2 ∧ addr % 2 = 1 then some .misaligned
  else if addr + n - 1 ≤ 2 ^ 32 - 1 ∧ P.memAdmit addr n = true then none
  else some .memRefused

/-- `MemRead(addr, n)` (R73), zero-extended to 16 bits: little-endian (R77). -/
def memRead (P : Params) (addr n : Nat) (s : State) : Except FaultKind Half :=
  match memCheck P addr n with
  | some kind => .error kind
  | none =>
    .ok (if n = 2 then Memory.read s.mem (addr + 1) ++ Memory.read s.mem addr
      else (Memory.read s.mem addr).setWidth 16)

/-- `MemWrite(addr, n, v)` (R74): both bytes of a 2-byte unit in the one step, the low byte lower (R77). -/
def memWrite (P : Params) (addr n : Nat) (v : Half) (s : State) : Except FaultKind State :=
  match memCheck P addr n with
  | some kind => .error kind
  | none =>
    let low := Memory.write s.mem addr (v.extractLsb' 0 8)
    .ok { s with mem := if n = 2 then Memory.write low (addr + 1) (v.extractLsb' 8 8) else low }

/-! ## Results and faults -/

/-- `finish(status, reason, value)` (R9): RES is written and the phase is IDLE, which makes BUSY 0. -/
def finish (status : Status) (reason : Reason) (value : Half) (s : State) : State :=
  { s with res := resWord status reason value, ph := .idle }

/-- `raise Fault(kind)` (R9, R196): the sticky bit is set, the phase is FAULTED, the command is abandoned,
and nothing else of the state moves (R192). -/
def raise (kind : FaultKind) (s : State) : State :=
  { s with fault := s.fault ||| kind.mask, ph := .faulted }

/-- A step whose access may fault: on a fault the access is not performed and the state before it takes
the fault (R192); else the step goes on from the access's result. -/
def afterAccess {α : Type} (s : State) (access : Except FaultKind α) (go : α → State) : State :=
  match access with
  | .error kind => raise kind s
  | .ok a => go a

/-! ## The register bus -/

/-- The register's offset from UART_BASE (R35). -/
def Reg.offset : Reg → Nat
  | .mode => 0x00
  | .modeClr => 0x04
  | .modeSet => 0x08
  | .modeInv => 0x0C
  | .sta => 0x10
  | .staClr => 0x14
  | .staSet => 0x18
  | .staInv => 0x1C
  | .txreg => 0x20
  | .rxreg => 0x30
  | .brg => 0x40

/-- The register's address on the register bus (R6, R35, R87). -/
def Reg.address (P : Params) (r : Reg) : Nat := P.uartBase + r.offset

/-- One draw has been taken. -/
def drawn (s : State) : State := { s with draws := s.draws + 1 }

/-- The unit a read of RXREG returns (R80): the head's data; a draw when the FIFO is empty. -/
def rxData (P : Params) (s : State) : Unit9 :=
  match s.rxf with
  | [] => P.drawUnit s.draws
  | u :: _ => u.data

/-- What a read of RXREG leaves (R80): the head unit removed; one more draw taken when there is none. -/
def rxPop (s : State) : State :=
  match s.rxf with
  | [] => drawn s
  | _ :: rest => { s with rxf := rest }

/-- `RegRead(R)` (R80): what it returns, and the state after it. -/
def regRead (P : Params) (r : Reg) (s : State) : Word × State :=
  match r with
  | .mode => (modeImage s, s)
  | .sta => (staImage P s (P.drawRidle s.draws), drawn s)
  | .brg => (brgImage s, s)
  | .txreg => (0, s)
  | .rxreg => ((rxData P s).setWidth 32, rxPop s)
  | .modeClr => (P.drawWord s.draws, drawn s)
  | .modeSet => (P.drawWord s.draws, drawn s)
  | .modeInv => (P.drawWord s.draws, drawn s)
  | .staClr => (P.drawWord s.draws, drawn s)
  | .staSet => (P.drawWord s.draws, drawn s)
  | .staInv => (P.drawWord s.draws, drawn s)

/-- A step that reads a register: it goes on from the value read and the state after the read. -/
def afterRead (read : Word × State) (go : Word → State → State) : State := go read.1 read.2

/-- What a flush parameter does this time: itself, or the draw (R85, R86). -/
def flushNow (P : Params) (policy : FlushPolicy) (s : State) : FlushChoice :=
  match policy with
  | .keep => .keep
  | .flush => .flush
  | .draw => P.drawFlush s.draws

/-- The disable effect (R85), of a write that changes ON from 1 to 0. -/
def disableEffect (P : Params) (s : State) : State :=
  let off := drawn { s with utxen := false, urxen := false, utxbrk := false }
  match flushNow P P.disableFlush s with
  | .keep => off
  | .flush => { off with rxf := [], oerr := false, txf := [], tsr := none }

/-- The OERR-clear effect (R86), of a write that changes OERR from 1 to 0. -/
def oerrClearEffect (P : Params) (s : State) : State :=
  match flushNow P P.oerrClearFlush s with
  | .keep => drawn s
  | .flush => drawn { s with rxf := [] }

/-- The checks of R83 on the old and new MODE images, in the rule's order. -/
def modeCheck (old new : Half) : Option FaultKind :=
  if modeOn old = true ∧ modeAbaud old = true ∧ modeAbaud new = false then some .abaudCleared
  else if modeOn old = true ∧ modeOn new = true ∧
      (modePdsel new ≠ modePdsel old ∨ modeStsel new ≠ modeStsel old ∨ modeBrgh new ≠ modeBrgh old) then
    some .liveReconfig
  else none

/-- A write that gives MODE a new image: the checks of R83, then the effect of R85 (R81, R82). -/
def writeMode (P : Params) (new : Half) (s : State) : Except FaultKind State :=
  match modeCheck s.mode new with
  | some kind => .error kind
  | none =>
    .ok (if modeOn s.mode = true ∧ modeOn new = false then disableEffect P { s with mode := new }
      else { s with mode := new })

/-- A write that gives STA a candidate image (R81, R82): the bits of WMASK_STA (24:13, 12:10, 7:5) take
it, OERR can only be cleared, the rest is unchanged; then the effect of R86. -/
def writeSta (P : Params) (c : Word) (s : State) : State :=
  let new := { s with
    staHi := c.extractLsb' 13 12
    urxen := c.getLsbD 12
    utxbrk := c.getLsbD 11
    utxen := c.getLsbD 10
    staLo := c.extractLsb' 5 3
    oerr := s.oerr && c.getLsbD 1 }
  if s.oerr = true ∧ new.oerr = false then oerrClearEffect P new else new

/-- The STA image a CLR, SET or INV write works on (R82). RIDLE, a draw at a read, is no bit the write can
store, so its value here cannot matter. -/
def staOld (P : Params) (s : State) : Word := staImage P s false

/-- A write of TXREG (R84). -/
def writeTxreg (P : Params) (v : Word) (s : State) : Except FaultKind State :=
  if s.txf.length = P.txDepth then .error .txOverflow
  else .ok { s with txf := s.txf ++ [keptUnit s.mode v] }

/-- A write of BRG (R81, R83). -/
def writeBrg (v : Word) (s : State) : Except FaultKind State :=
  if modeOn s.mode = true then .error .liveReconfig else .ok { s with brg := v.setWidth 16 }

/-- `RegWrite(R, v)` (R81, R82, R84): the state after it, or the fault it raises unperformed. -/
def regWrite (P : Params) (r : Reg) (v : Word) (s : State) : Except FaultKind State :=
  match r with
  | .mode => writeMode P (v.setWidth 16) s
  | .modeClr => writeMode P ((modeImage s &&& ~~~v).setWidth 16) s
  | .modeSet => writeMode P ((modeImage s ||| v).setWidth 16) s
  | .modeInv => writeMode P ((modeImage s ^^^ v).setWidth 16) s
  | .sta => .ok (writeSta P v s)
  | .staClr => .ok (writeSta P (staOld P s &&& ~~~v) s)
  | .staSet => .ok (writeSta P (staOld P s ||| v) s)
  | .staInv => .ok (writeSta P (staOld P s ^^^ v) s)
  | .brg => writeBrg v s
  | .txreg => writeTxreg P v s
  | .rxreg => .ok s

/-! ## Clock port and reset -/

/-- `ClockQuery()` (R31). -/
def clockQuery (P : Params) : Word := P.clkDefault

/-- The reset signal (R220): every register at its value of R60; buffer memory and LINE_OUT are kept, and
so are the model's own schedule and draw counter. -/
def resetSignal (s : State) : State :=
  { State.reset with mem := s.mem, lineOut := s.lineOut, turns := s.turns, draws := s.draws }

end Sys2Proof.Machine
end

