-- ==== Sys2Proof/Machine/Autobaud.lean ====
section
/-! DEFINITION. The autobaud commands AUTOBAUD_QUERY and AUTOBAUD_SET (44_autobaud.md rules R180 to R183). -/

namespace Sys2Proof.Machine

/-- AUTOBAUD_QUERY's one step (R180). -/
def autobaudQueryStep (P : Params) (s : State) : Host.Outcome State Fault Refusal :=
  match s.ph with
  | .aq1 =>
    .next (afterRead (regRead P .mode s) fun v s => finish .ok .none (flagValue (modeAbaud v)) { s with t := v })
  | _ => .fault .strayPhase

/-- AUTOBAUD_QUERY (R180). -/
def execAutobaudQuery (s : State) : Host.Outcome State Fault Refusal := autobaudQueryStep Config.params s

/-- AUTOBAUD_SET's one step (R181): EN = 0 performs no access. -/
def autobaudSetStep (P : Params) (en : Bool) (s : State) : Host.Outcome State Fault Refusal :=
  match s.ph with
  | .as1 =>
    .next (if en = false then finish .ok .none 0 s
      else afterAccess s (regWrite P .modeSet mAbaud s) (finish .ok .none 0))
  | _ => .fault .strayPhase

/-- AUTOBAUD_SET (R181). -/
def execAutobaudSet (en : Bool) (s : State) : Host.Outcome State Fault Refusal :=
  autobaudSetStep Config.params en s

end Sys2Proof.Machine
end

