-- ==== Sys2Proof/WellFormed.lean ====
section
/-! DEFINITION. Which commands a command word can stand for (30_encoding.md rules R109, R110): every
command but a SERIAL_SETUP with CP = 1 and the reserved parity 0b11. -/

namespace Sys2Proof

/-- CP = 1 with PAR = 0b11 is ILLEGAL (R109); with CP = 0 the field is ignored (R103). -/
def Instr.wellFormed : Instr → Bool
  | .serialSetup cp _ par _ => !(cp && par == 0b11#2)
  | .initialise => true
  | .errorGet => true
  | .read => true
  | .write => true
  | .writeByte => true
  | .readByte => true
  | .txReady => true
  | .rxReady => true
  | .txComplete => true
  | .autobaudQuery => true
  | .autobaudSet _ => true

end Sys2Proof
end

