-- ==== Sys2Proof/Machine/Configuration.lean ====
section
/-! DEFINITION. The configuration commands, INITIALIZE and SERIAL_SETUP (40_configuration.md rules R120 to
R127). A command's meaning is the one labelled step at `ph` (00_scope.md rule R10): each clause below is one
label of the rule's pseudocode. -/

namespace Sys2Proof.Machine

/-- INITIALIZE's step at the current label (R120). -/
def initialiseStep (P : Params) (s : State) : Host.Outcome State Fault Refusal :=
  match s.ph with
  | .i1 => .next (afterAccess s (regWrite P .mode initMode s) fun s => { s with ph := .i2 })
  | .i2 => .next (afterAccess s (regWrite P .staSet (sUtxen ||| sUrxen) s) fun s => { s with ph := .i3 })
  | .i3 => .next (afterAccess s (regWrite P .brg (P.initBrg.setWidth 32) s) fun s => { s with ph := .i4 })
  | .i4 => .next (afterAccess s (regWrite P .modeSet mOn s) (finish .ok .none 0))
  | _ => .fault .strayPhase

/-- INITIALIZE (R120). -/
def execInitialise (s : State) : Host.Outcome State Fault Refusal := initialiseStep Config.params s

/-- S.1: the validation in the source's order, with no access (R122, R193). -/
def setupValidate (cp wd : Bool) (par : BitVec 2) (s : State) : State :=
  if cp = false then finish .fail .invalidConfig 0 s
  else if s.opaL = 0 ∨ (wd = true ∧ par ≠ 0b00#2) then finish .fail .invalidCombination 0 s
  else { s with clk := s.opbL, ph := if s.opbL ≠ 0 then .s3 else .s2 }

/-- S.3: the divisor from the resolved clock and the baud rate (R122, R123). -/
def setupDivisor (s : State) : State :=
  match baudDiv s.clk.toNat s.opaL.toNat with
  | (true, dv) => { s with d := BitVec.ofInt 16 dv, ph := .s4 }
  | (false, _) => finish .fail .baudUnattainable 0 s

/-- SERIAL_SETUP's step at the current label (R122). -/
def serialSetupStep (P : Params) (cp wd : Bool) (par : BitVec 2) (sb : Bool) (s : State) :
    Host.Outcome State Fault Refusal :=
  if (Instr.serialSetup cp wd par sb).wellFormed = false then .refused .illFormedCommand
  else match s.ph with
  | .s1 => .next (setupValidate cp wd par s)
  | .s2 => .next { s with clk := clockQuery P, ph := .s3 }
  | .s3 => if s.opaL = 0 then .fault .zeroBaud else .next (setupDivisor s)
  | .s4 => .next (afterRead (regRead P .sta s) fun v s => { s with snap := v &&& sKeep, ph := .s5 })
  | .s5 => .next (afterAccess s (regWrite P .modeClr mOn s) fun s => { s with ph := .s6 })
  | .s6 => .next (afterRead (regRead P .mode s) fun v s => { s with t := v, ph := .s7 })
  | .s7 => .next (afterAccess s (regWrite P .mode (setupMode s.t wd par sb) s) fun s => { s with ph := .s8 })
  | .s8 => .next (afterAccess s (regWrite P .brg (s.d.setWidth 32) s) fun s => { s with ph := .s9 })
  | .s9 => .next (afterAccess s (regWrite P .modeSet mOn s) fun s => { s with ph := .s10 })
  | .s10 => .next (afterAccess s (regWrite P .staSet s.snap s) (finish .ok .none 0))
  | _ => .fault .strayPhase

/-- SERIAL_SETUP (R122). -/
def execSerialSetup (cp wd : Bool) (par : BitVec 2) (sb : Bool) (s : State) :
    Host.Outcome State Fault Refusal := serialSetupStep Config.params cp wd par sb s

end Sys2Proof.Machine
end

