-- ==== Sys2Proof/Machine/SingleUnit.lean ====
section
/-! DEFINITION. The single-unit commands WRITE_BYTE and READ_BYTE and the status predicates TX_READY, RX_READY
and TX_COMPLETE (43_single_unit.md rules R170 to R178). -/

namespace Sys2Proof.Machine

/-- WB.1: wait while the transmit FIFO is full (R170). -/
def writeBytePoll (P : Params) (s : State) : State :=
  afterRead (regRead P .sta s) fun v s => { s with t := v, ph := if v.getLsbD 9 = true then .wb1 else .wb2 }

/-- WRITE_BYTE's step at the current label (R170). -/
def writeByteStep (P : Params) (s : State) : Host.Outcome State Fault Refusal :=
  match s.ph with
  | .wb1 => .next (writeBytePoll P s)
  | .wb2 => .next (afterAccess s (regWrite P .txreg s.opaL s) (finish .ok .none 0))
  | _ => .fault .strayPhase

/-- WRITE_BYTE (R170). -/
def execWriteByte (s : State) : Host.Outcome State Fault Refusal := writeByteStep Config.params s

/-- READ_BYTE's one step (R172): no wait and no check. -/
def readByteStep (P : Params) (s : State) : Host.Outcome State Fault Refusal :=
  match s.ph with
  | .rb1 => .next (afterRead (regRead P .rxreg s) fun v s => finish .ok .none (v.setWidth 16) { s with t := v })
  | _ => .fault .strayPhase

/-- READ_BYTE (R172). -/
def execReadByte (s : State) : Host.Outcome State Fault Refusal := readByteStep Config.params s

/-- A status predicate's one step P.1 (R177, R178): one read of STA, answered by a test of the image. -/
def predicateStep (P : Params) (answer : Word → Bool) (s : State) : Host.Outcome State Fault Refusal :=
  match s.ph with
  | .p1 =>
    .next (afterRead (regRead P .sta s) fun v s => finish .ok .none (flagValue (answer v)) { s with t := v })
  | _ => .fault .strayPhase

/-- TX_READY (R174): UTXBF is 0. -/
def execTxReady (s : State) : Host.Outcome State Fault Refusal :=
  predicateStep Config.params (fun v => !v.getLsbD 9) s

/-- RX_READY (R175): URXDA. -/
def execRxReady (s : State) : Host.Outcome State Fault Refusal :=
  predicateStep Config.params (fun v => v.getLsbD 0) s

/-- TX_COMPLETE (R176): TRMT. -/
def execTxComplete (s : State) : Host.Outcome State Fault Refusal :=
  predicateStep Config.params (fun v => v.getLsbD 8) s

end Sys2Proof.Machine
end

