-- ==== Sys2Proof/Machine/ErrorRecovery.lean ====
section
/-! DEFINITION. ERROR_GET and the internal ErrorClear sequence (41_error_recovery.md rules R140, R141), which
READ also runs. -/

namespace Sys2Proof.Machine

/-- EC.1: a fresh read of the overrun flag (R141). -/
def errorClearTest (P : Params) (s : State) : State :=
  afterRead (regRead P .sta s) fun v s => { s with t := v, ph := if v.getLsbD 1 = true then .ec2 else .ec3 }

/-- EC.2: clear the overrun latch (R141). -/
def errorClearLatch (P : Params) (s : State) : State :=
  afterAccess s (regWrite P .staClr sOerr s) fun s => { s with ph := .ec3 }

/-- EC.3: drained yet? Then the caller's next label, G.2 or R.2 (R141). -/
def errorClearPoll (P : Params) (back : Phase) (s : State) : State :=
  afterRead (regRead P .sta s) fun v s => { s with t := v, ph := if v.getLsbD 0 = true then .ec4 else back }

/-- EC.4: one unit is read and discarded (R141). -/
def errorClearDrain (P : Params) (s : State) : State :=
  afterRead (regRead P .rxreg s) fun _ s => { s with ph := .ec3 }

/-- G.1: the error bitset, and ErrorClear when it is not empty (R140). -/
def errorGetQuery (P : Params) (s : State) : State :=
  afterRead (regRead P .sta s) fun v s =>
    if v &&& sErr = 0 then finish .ok .none 0 { s with t := v, e := v &&& sErr }
    else { s with t := v, e := v &&& sErr, ph := .ec1 }

/-- ERROR_GET's step at the current label (R140, R141). -/
def errorGetStep (P : Params) (s : State) : Host.Outcome State Fault Refusal :=
  match s.ph with
  | .g1 => .next (errorGetQuery P s)
  | .ec1 => .next (errorClearTest P s)
  | .ec2 => .next (errorClearLatch P s)
  | .ec3 => .next (errorClearPoll P .g2 s)
  | .ec4 => .next (errorClearDrain P s)
  | .g2 => .next (finish .ok .none (s.e.setWidth 16) s)
  | _ => .fault .strayPhase

/-- ERROR_GET (R140). -/
def execErrorGet (s : State) : Host.Outcome State Fault Refusal := errorGetStep Config.params s

end Sys2Proof.Machine
end

