-- ==== Sys2Proof/Machine/Transfer.lean ====
section
/-! DEFINITION. The blocking transfers READ and WRITE (42_transfer.md rules R150 to R157). -/

namespace Sys2Proof.Machine

/-- R.0: the null buffer, then the pre-clear of READ_PRECLEAR (R150). -/
def readStart (P : Params) (s : State) : State :=
  if s.opaL = 0 then finish .fail .nullBuffer 0 s
  else { s with ph := if P.readPreclear = .always then .ec1 else .r1 }

/-- R.1: with READ_PRECLEAR = on_error, ErrorClear only on an error (R150). -/
def readPretest (P : Params) (s : State) : State :=
  afterRead (regRead P .sta s) fun v s => { s with t := v, ph := if v &&& sErr = 0 then .r2 else .ec1 }

/-- R.2 and W.1: the unit size is sampled once from MODE.PDSEL (R150, R155). -/
def sampleWidth (P : Params) (go : Phase) (s : State) : State :=
  afterRead (regRead P .mode s) fun v s => { s with t := v, w := unitSize v, ph := go }

/-- R.3 and W.2: done when `k = OPB_L` (R150, R155). -/
def countTest (go : Phase) (s : State) : State :=
  if s.k = s.opbL then finish .ok .none 0 s else { s with ph := go }

/-- R.4: one read of STA serves the error test, which comes first, and the data test (R150, R193). -/
def readPoll (P : Params) (s : State) : State :=
  afterRead (regRead P .sta s) fun v s =>
    if v &&& sErr = 0 then { s with t := v, ph := if v.getLsbD 0 = true then .r5 else .r4 }
    else finish .fail .lineError 0 { s with t := v }

/-- R.5: the head unit (R150). -/
def readUnit (P : Params) (s : State) : State :=
  afterRead (regRead P .rxreg s) fun v s => { s with t := v, ph := .r6 }

/-- R.6: the unit goes to the buffer and is counted (R150). -/
def readStore (P : Params) (s : State) : State :=
  afterAccess s (memWrite P (unitAddr s) s.w.toNat (s.t.setWidth 16) s)
    fun s => { s with k := s.k + 1, ph := .r3 }

/-- READ's step at the current label (R150, R141). `w` is 1 or 2 wherever R.6 is reached (R24). -/
def readStep (P : Params) (s : State) : Host.Outcome State Fault Refusal :=
  match s.ph with
  | .r0 => .next (readStart P s)
  | .r1 => .next (readPretest P s)
  | .ec1 => .next (errorClearTest P s)
  | .ec2 => .next (errorClearLatch P s)
  | .ec3 => .next (errorClearPoll P .r2 s)
  | .ec4 => .next (errorClearDrain P s)
  | .r2 => .next (sampleWidth P .r3 s)
  | .r3 => .next (countTest .r4 s)
  | .r4 => .next (readPoll P s)
  | .r5 => .next (readUnit P s)
  | .r6 => if s.w = 1 ∨ s.w = 2 then .next (readStore P s) else .fault .strayWidth
  | _ => .fault .strayPhase

/-- READ (R150). -/
def execRead (s : State) : Host.Outcome State Fault Refusal := readStep Config.params s

/-- W.0: the null buffer (R155). -/
def writeStart (s : State) : State :=
  if s.opaL = 0 then finish .fail .nullBuffer 0 s else { s with ph := .w1 }

/-- W.3: wait while the transmit FIFO is full (R155). -/
def writePoll (P : Params) (s : State) : State :=
  afterRead (regRead P .sta s) fun v s => { s with t := v, ph := if v.getLsbD 9 = true then .w3 else .w4 }

/-- W.4: the unit from the buffer (R155). -/
def writeFetch (P : Params) (s : State) : State :=
  afterAccess s (memRead P (unitAddr s) s.w.toNat s) fun v => { s with t := v.setWidth 32, ph := .w5 }

/-- W.5: the unit goes to TXREG and is counted (R155). -/
def writeSend (P : Params) (s : State) : State :=
  afterAccess s (regWrite P .txreg s.t s) fun s => { s with k := s.k + 1, ph := .w2 }

/-- WRITE's step at the current label (R155). `w` is 1 or 2 wherever W.4 is reached (R24). -/
def writeStep (P : Params) (s : State) : Host.Outcome State Fault Refusal :=
  match s.ph with
  | .w0 => .next (writeStart s)
  | .w1 => .next (sampleWidth P .w2 s)
  | .w2 => .next (countTest .w3 s)
  | .w3 => .next (writePoll P s)
  | .w4 => if s.w = 1 ∨ s.w = 2 then .next (writeFetch P s) else .fault .strayWidth
  | .w5 => .next (writeSend P s)
  | _ => .fault .strayPhase

/-- WRITE (R155). -/
def execWrite (s : State) : Host.Outcome State Fault Refusal := writeStep Config.params s

end Sys2Proof.Machine
end

