-- ==== Sys2Proof/Machine/Dispatch.lean ====
section
/-! DEFINITION. The meaning of each command: its labelled step at `ph` (00_scope.md rule R10). -/

namespace Sys2Proof.Machine

def exec (i : Instr) (s : State) : Host.Outcome State Fault Refusal :=
  match i with
  | .initialise => Sys2Proof.Machine.execInitialise s
  | .serialSetup cp wd par sb => Sys2Proof.Machine.execSerialSetup cp wd par sb s
  | .errorGet => Sys2Proof.Machine.execErrorGet s
  | .read => Sys2Proof.Machine.execRead s
  | .write => Sys2Proof.Machine.execWrite s
  | .writeByte => Sys2Proof.Machine.execWriteByte s
  | .readByte => Sys2Proof.Machine.execReadByte s
  | .txReady => Sys2Proof.Machine.execTxReady s
  | .rxReady => Sys2Proof.Machine.execRxReady s
  | .txComplete => Sys2Proof.Machine.execTxComplete s
  | .autobaudQuery => Sys2Proof.Machine.execAutobaudQuery s
  | .autobaudSet en => Sys2Proof.Machine.execAutobaudSet en s

end Sys2Proof.Machine
end

