-- ==== Sys2Proof/Decode.lean ====
section
/-! DEFINITION. Decoding of a command word (30_encoding.md rule R109), total on all 2^32 words and naming
why a word is illegal (R110); the encoder (R101-R107); the assembler (R112, R113). -/

namespace Sys2Proof

/-- Why a word decodes to ILLEGAL (R110). -/
inductive IllegalWord where
  /-- Bits 7:4 are not 0 (R101). -/
  | zField
  /-- A bit of the format's must-be-0 range is set (R102-R106). -/
  | mustBeZero
  /-- Format S with CP = 1 and PAR = 0b11 (R109). -/
  | reservedParity
  /-- Opcode 0xC to 0xF (R107). -/
  | reservedOpcode
  deriving DecidableEq, Repr

/-- What a command word decodes to: a command or ILLEGAL, with the reason. -/
inductive Decoded where
  | command (i : Instr)
  | illegal (why : IllegalWord)
  deriving DecidableEq, Repr

/-- A word of format N, B or D: bits 31:8 must be 0 (R102, R104, R105). -/
def decodePlain (W : Word) (i : Instr) : Decoded :=
  if W.extractLsb' 8 24 = 0#24 then .command i else .illegal .mustBeZero

/-- A word of format S (R103, R109). -/
def decodeSetup (W : Word) : Decoded :=
  if W.extractLsb' 13 19 = 0#19 then
    if W.getLsbD 8 = true ∧ W.extractLsb' 10 2 = 0b11#2 then .illegal .reservedParity
    else .command (.serialSetup (W.getLsbD 8) (W.getLsbD 9) (W.extractLsb' 10 2) (W.getLsbD 12))
  else .illegal .mustBeZero

/-- A word of format E (R106, R109). -/
def decodeSet (W : Word) : Decoded :=
  if W.extractLsb' 9 23 = 0#23 then .command (.autobaudSet (W.getLsbD 8)) else .illegal .mustBeZero

/-- Rule R109 for a word whose Z field is 0, by its opcode (R107). -/
def decodeOpcode (opc : BitVec 4) (W : Word) : Decoded :=
  if opc = 0x0#4 then decodePlain W .initialise
  else if opc = 0x1#4 then decodeSetup W
  else if opc = 0x2#4 then decodePlain W .errorGet
  else if opc = 0x3#4 then decodePlain W .read
  else if opc = 0x4#4 then decodePlain W .write
  else if opc = 0x5#4 then decodePlain W .writeByte
  else if opc = 0x6#4 then decodePlain W .readByte
  else if opc = 0x7#4 then decodePlain W .txReady
  else if opc = 0x8#4 then decodePlain W .rxReady
  else if opc = 0x9#4 then decodePlain W .txComplete
  else if opc = 0xA#4 then decodePlain W .autobaudQuery
  else if opc = 0xB#4 then decodeSet W
  else .illegal .reservedOpcode

/-- Rule R109: the Z field first, then the opcode. -/
def decode (W : Word) : Decoded :=
  if W.extractLsb' 4 4 = 0#4 then decodeOpcode (W.extractLsb' 0 4) W else .illegal .zField

/-- The word numbered as spec/opcode_table.json numbers it: one 32-bit command word, bit 0 its least
significant bit. -/
def tableWord (nbits w : Nat) : Word := BitVec.ofNat 32 (w % 2 ^ nbits)

/-- What the decoder reads from the table's word. -/
def decodeTableWord (nbits w : Nat) : Option Instr :=
  match decode (tableWord nbits w) with
  | .command i => some i
  | .illegal _ => none

/-! ## The encoder -/

/-- A command's opcode, bits 3:0 of its word (R107). -/
def Instr.opcode : Instr → BitVec 4
  | .initialise => 0x0
  | .serialSetup _ _ _ _ => 0x1
  | .errorGet => 0x2
  | .read => 0x3
  | .write => 0x4
  | .writeByte => 0x5
  | .readByte => 0x6
  | .txReady => 0x7
  | .rxReady => 0x8
  | .txComplete => 0x9
  | .autobaudQuery => 0xA
  | .autobaudSet _ => 0xB

/-- A word of format N, B or D with the given opcode: bits 31:8 and Z are 0. -/
def plainWord (opc : BitVec 4) : Word := 0#24 ++ 0#4 ++ opc

/-- The command word of a command (R101-R107). -/
def encode : Instr → Word
  | .initialise => plainWord 0x0#4
  | .serialSetup cp wd par sb =>
    0#19 ++ BitVec.ofBool sb ++ par ++ BitVec.ofBool wd ++ BitVec.ofBool cp ++ 0#4 ++ 0x1#4
  | .errorGet => plainWord 0x2#4
  | .read => plainWord 0x3#4
  | .write => plainWord 0x4#4
  | .writeByte => plainWord 0x5#4
  | .readByte => plainWord 0x6#4
  | .txReady => plainWord 0x7#4
  | .rxReady => plainWord 0x8#4
  | .txComplete => plainWord 0x9#4
  | .autobaudQuery => plainWord 0xA#4
  | .autobaudSet en => 0#23 ++ BitVec.ofBool en ++ 0#4 ++ 0xB#4

/-! ## The assembler (R112, R113) -/

/-- What an assembler line makes the host write: the operands it spells, and the command word; `none` is a register
the line does not write (for OPB of a `WRITE_BYTE` line this is the model's choice, log 25). -/
structure Assembled where
  word : Word
  opa : Option Word
  opb : Option Word
  deriving DecidableEq, Repr

/-- PAR's code of a parity (R103). -/
def Parity.code : Parity → BitVec 2
  | .none => 0b00#2
  | .even => 0b01#2
  | .odd => 0b10#2

/-- `NULL` is CP = 0 with bits 12:9 = 0; `8N1` is CP = 1, WD = 0, PAR = 0b00, SB = 0 (R112). -/
def SetupCfg.instr : SetupCfg → Instr
  | .null => .serialSetup false false 0b00#2 false
  | .line nine par two => .serialSetup true nine par.code two

/-- An assembler line's words (R112), a pseudo-instruction by its expansion (R113).
DESIGN CHOICE, unsafe (log 25): a `WRITE_BYTE` line writes OPA and not OPB. R112 has the host write OPA and OPB for
formats S, B, D, but gives format D no value for OPB, and R115 shows `-` there. -/
def AsmLine.assemble : AsmLine → Assembled
  | .initialise => ⟨encode .initialise, none, none⟩
  | .serialSetup cfg baud clk => ⟨encode cfg.instr, some baud, some clk⟩
  | .errorGet => ⟨encode .errorGet, none, none⟩
  | .read addr count => ⟨encode .read, some addr, some count⟩
  | .write addr count => ⟨encode .write, some addr, some count⟩
  | .writeByte data => ⟨encode .writeByte, some data, none⟩
  | .readByte => ⟨encode .readByte, none, none⟩
  | .txReady => ⟨encode .txReady, none, none⟩
  | .rxReady => ⟨encode .rxReady, none, none⟩
  | .txComplete => ⟨encode .txComplete, none, none⟩
  | .autobaudQuery => ⟨encode .autobaudQuery, none, none⟩
  | .autobaudSet en => ⟨encode (.autobaudSet en), none, none⟩
  | .serialSetupDefaultClock cfg baud => ⟨encode cfg.instr, some baud, some 0⟩
  | .autobaudEnable => ⟨encode (.autobaudSet true), none, none⟩

end Sys2Proof
end

