-- ==== Sys2Proof/Machine/HostPort.lean ====
section
/-! DEFINITION. The host's steps (60_exceptions.md rules R210-R212, R196; 10_state.md rule R25): accepting a
command, writing and reading the port, writing and reading buffer memory; and the host programs of R112. -/

namespace Sys2Proof.Machine

/-! ## Port offsets (R25) -/

def offCmd : Nat := 0x00
def offOpa : Nat := 0x04
def offOpb : Nat := 0x08
def offRes : Nat := 0x0C
def offStat : Nat := 0x10
def offFault : Nat := 0x14
def offXcnt : Nat := 0x18

/-- The port register's address on the host bus (R6, R25, R87). -/
def hostAddress (P : Params) (off : Nat) : Nat := P.hostBase + off

/-- A command's first label (R210). -/
def firstLabel : Instr → Phase
  | .initialise => .i1
  | .serialSetup _ _ _ _ => .s1
  | .errorGet => .g1
  | .read => .r0
  | .write => .w0
  | .writeByte => .wb1
  | .readByte => .rb1
  | .txReady => .p1
  | .rxReady => .p1
  | .txComplete => .p1
  | .autobaudQuery => .aq1
  | .autobaudSet _ => .as1

/-- The command moves units between the peripheral and buffer memory: READ or WRITE (R71). -/
def isTransfer (i : Instr) : Bool := i == .read || i == .write

/-- Acceptance (R210): CMD takes the word, the operands are latched, RES is cleared; an illegal word is
finished at once; else `k` is cleared for READ and WRITE and the phase is the first label. -/
def accept (W : Word) (s : State) : State :=
  let latched := { s with cmd := W, cmdL := W, opaL := s.opa, opbL := s.opb, res := 0 }
  match decode W with
  | .illegal _ => finish .illegal .illegalEncoding 0 latched
  | .command i =>
    { latched with k := if isTransfer i then 0 else s.k, ph := firstLabel i }

/-- A host write to CMD (R210, R211, R196). -/
def writeCmd (W : Word) (s : State) : State :=
  match s.ph with
  | .idle => accept W s
  | .faulted => s
  | _ => raise .cmdWhileBusy s

/-- A host write at an offset (R25): OPA and OPB at any time (R210); read-only registers and other
offsets ignore it. -/
def hostWrite (off : Nat) (v : Word) (s : State) : State :=
  if off = offCmd then writeCmd v s
  else if off = offOpa then { s with opa := v }
  else if off = offOpb then { s with opb := v }
  else s

/-- What a host read at an offset returns (R25); it changes nothing (R210). -/
def hostRead (off : Nat) (s : State) : Word :=
  if off = offCmd then s.cmd
  else if off = offOpa then s.opa
  else if off = offOpb then s.opb
  else if off = offRes then s.res
  else if off = offStat then statReg s
  else if off = offFault then s.fault
  else if off = offXcnt then xcntReg s
  else 0

/-- A label at which a READ or WRITE is in progress and has not yet sampled the unit width (R72, R212):
`w` is taken by the step R.2 or W.1. -/
def widthUnsampled : Phase → Bool
  | .r0 | .r1 | .r2 | .ec1 | .ec2 | .ec3 | .ec4 | .w0 | .w1 => true
  | _ => false

/-- The byte belongs to the buffer of a READ or WRITE in progress (R212): the sequencer is at a label and
the latched command is READ or WRITE; the unit size is 2 until it has been sampled. -/
def ownedByTransfer (s : State) (a : Nat) : Bool :=
  s.ph != .idle && s.ph != .faulted &&
    (decode s.cmdL == .command .read || decode s.cmdL == .command .write) &&
    inBuffer s (if widthUnsampled s.ph then 2 else s.w.toNat) a

/-- A host write of one byte of buffer memory (R212): performed, with a fault in the same step when a
transfer owns the byte. -/
def hostWriteMem (addr : Word) (v : Byte) (s : State) : State :=
  let written := { s with mem := Memory.write s.mem addr.toNat v }
  if ownedByTransfer s addr.toNat then raise .hostBufferWrite written else written

/-- What a host read of a byte of buffer memory returns (R212); it changes nothing. -/
def hostReadMem (addr : Word) (s : State) : Byte := Memory.read s.mem addr.toNat

/-- One poll of STAT (R112): a read with no effect on the machine. With BUSY = 0 the host program goes on; with
BUSY = 1 the host polls again, after a step of the sequencer (notes/assumptions/24.md). -/
def pollBusy (s : State) : State :=
  if busy s then { s with turns := .sequencer :: .host .pollBusy :: s.turns } else s

/-- The host's step. A read has no effect on the state; `hostRead` and `hostReadMem` give what it returns. -/
def hostTurn (a : HostAction) (s : State) : State :=
  match a with
  | .writePort off v => hostWrite off v s
  | .readPort _ => s
  | .writeMem addr v => hostWriteMem addr v s
  | .readMem _ => s
  | .pollBusy => pollBusy s

/-! ## Host programs (R112) -/

/-- What an assembler line makes the host write (R112): the operands it spells, then CMD. A `WRITE_BYTE` line spells
no OPB, so OPB keeps its value (DESIGN CHOICE, log 25). -/
def issueTurns (line : AsmLine) : List Turn :=
  let a := line.assemble
  (match a.opa with
    | some v => [.host (.writePort offOpa v)]
    | none => []) ++
  (match a.opb with
    | some v => [.host (.writePort offOpb v)]
    | none => []) ++
  [.host (.writePort offCmd a.word)]

/-- A step of another agent at a stated point of a command in progress: the spec's programs place line events
between two steps of the sequencer (95_test_vectors.md section 3). -/
inductive Meanwhile where
  | sequencer
  | event (e : LineEvent)
  deriving DecidableEq, Repr

def Meanwhile.turn : Meanwhile → Turn
  | .sequencer => .sequencer
  | .event e => .line e

/-- A line of a host program (R112): a command, with the steps stated to occur while it runs; the events of an
`@line` line, in order; or a raw command word (`.word`, 95_test_vectors.md P5). -/
inductive HostLine where
  | command (line : AsmLine) (meanwhile : List Meanwhile)
  | events (es : List LineEvent)
  | word (w : Word)
  deriving DecidableEq, Repr

/-- What a line means (R112): the host writes the operands and CMD, then polls STAT until BUSY = 0; an `@line`
line is its events. -/
def HostLine.turns : HostLine → List Turn
  | .command line meanwhile => issueTurns line ++ meanwhile.map Meanwhile.turn ++ [.host .pollBusy]
  | .events es => es.map .line
  | .word w => [.host (.writePort offCmd w), .host .pollBusy]

/-- A host program is a list of lines (R112): the turns of each, in order. -/
def programTurns (program : List HostLine) : List Turn := program.flatMap HostLine.turns

/-- `s` with the host program about to run and nothing else scheduled. -/
def State.withProgram (s : State) (program : List HostLine) : State := { s with turns := programTurns program }

end Sys2Proof.Machine
end

