-- ==== Sys2Proof/Machine/Line.lean ====
section
/-! DEFINITION. The line side's events (60_exceptions.md rules R200-R203): each is one atomic step, enabled
when its guard holds. -/

namespace Sys2Proof.Machine

/-- An event's guard. -/
def lineEnabled (P : Params) (e : LineEvent) (s : State) : Bool :=
  match e with
  | .rx _ _ _ => modeOn s.mode && s.urxen && !s.oerr
  | .load => modeOn s.mode && s.utxen && s.tsr.isNone && !s.txf.isEmpty
  | .done => s.tsr.isSome
  | .autobaud _ => P.autobaudHw && modeOn s.mode && modeAbaud s.mode

/-- The unit as it enters the receive FIFO (R51, R200): bit 8 is 0 unless PDSEL = 0b11, and there is no
parity error when there is no parity. -/
def receivedUnit (mode : Half) (data : Unit9) (ferr perr : Bool) : RxUnit where
  data := if modePdsel mode = 0b11#2 then data else (data.extractLsb' 0 8).setWidth 9
  ferr := ferr
  perr := if modePdsel mode = 0b00#2 ∨ modePdsel mode = 0b11#2 then false else perr

/-- Receive (R200): the unit is appended, or lost with OERR set when the FIFO is full. -/
def receive (P : Params) (u : RxUnit) (s : State) : State :=
  if s.rxf.length < P.rxDepth then { s with rxf := s.rxf ++ [u] } else { s with oerr := true }

/-- Transmit load (R201): the head of the transmit FIFO enters TSR with the configuration of this step. -/
def transmitLoad (s : State) : State :=
  match s.txf with
  | [] => s
  | u :: rest =>
    { s with
      txf := rest
      tsr := some ⟨u, modePdsel s.mode, modeStsel s.mode, modeBrgh s.mode, s.brg⟩ }

/-- Transmit done (R202): the unit is on the line and TSR is idle. -/
def transmitDone (s : State) : State :=
  match s.tsr with
  | none => s
  | some u => { s with lineOut := s.lineOut ++ [u], tsr := none }

/-- Autobaud completion (R203): BRG takes the drawn divisor and ABAUD becomes 0. -/
def autobaudComplete (brg : Half) (s : State) : State :=
  { s with brg := brg, mode := s.mode &&& ~~~(mAbaud.setWidth 16) }

/-- What an enabled event does. -/
def lineEffect (P : Params) (e : LineEvent) (s : State) : State :=
  match e with
  | .rx data ferr perr => receive P (receivedUnit s.mode data ferr perr) s
  | .load => transmitLoad s
  | .done => transmitDone s
  | .autobaud brg => autobaudComplete brg s

/-- An event's turn: its effect when it is enabled; an event that is not enabled does not occur. -/
def lineTurn (P : Params) (e : LineEvent) (s : State) : State :=
  if lineEnabled P e s then lineEffect P e s else s

end Sys2Proof.Machine
end

