-- ==== Sys2Proof/Machine/Step.lean ====
section
/-! DEFINITION. One step of the machine: the step of one agent (10_state.md rule R20, 20_memory.md rule R88).
The head of the schedule `turns` says whose; when the schedule is empty the sequencer steps. -/

namespace Sys2Proof.Machine

/-- The sequencer's turn (R22): at a label, the step of the latched command there; in IDLE and FAULTED the
sequencer has no step. -/
def sequencerTurn (s : State) : Host.Outcome State Fault Refusal :=
  match s.ph with
  | .idle => .next s
  | .faulted => .next s
  | _ =>
    match decode s.cmdL with
    | .command i => exec i s
    | .illegal _ => .refused .latchedWordIllegal

/-- One agent's turn. -/
def takeTurn (turn : Turn) (s : State) : Host.Outcome State Fault Refusal :=
  match turn with
  | .sequencer => sequencerTurn s
  | .line e => .next (lineTurn Config.params e s)
  | .host a => .next (hostTurn a s)
  | .reset => .next (resetSignal s)

/-- One step: the head of the schedule is taken off and its turn taken. -/
def step (s : State) : Host.Outcome State Fault Refusal :=
  match s.turns with
  | [] => sequencerTurn s
  | turn :: rest => takeTurn turn { s with turns := rest }

/-- `s` with the table's word accepted as a command (R210) and the sequencer next to step, so that the
very next step is that command's first. It stands for the host's write to CMD (notes/assumptions/10.md). -/
def State.withFetchWord (s : State) (nbits w : Nat) : State :=
  { accept (tableWord nbits w) s with turns := .sequencer :: s.turns }

end Sys2Proof.Machine
end

