-- ==== Sys2Proof/Safety.lean ====
section
/-! DEFINITION. What a good run is, in the terms the claims use: the end of a run (60_exceptions.md rule R215),
a command running alone, the invariant every step keeps, and the fairness of rule R204. -/

namespace Sys2Proof.Safety

open Sys2Proof.Machine

/-! ## Runs -/

/-- No fault has been raised: the premise of every claim about a run (R196). -/
def FaultFree (s : State) : Prop := s.fault = 0

/-- `n` steps of one meaning, with no other agent's step between them; of `step`, `n` steps of the whole machine. -/
def runSteps (meaning : State → Host.Outcome State Fault Refusal) :
    Nat → State → Host.Outcome State Fault Refusal
  | 0, s => .next s
  | n + 1, s =>
    match meaning s with
    | .next t => runSteps meaning n t
    | .fault r => .fault r
    | .refused r => .refused r

/-- The turn is a host write to CMD. -/
def isCommandWrite : Turn → Bool
  | .host (.writePort off _) => off == offCmd
  | _ => false

/-- The condition of R215: the host has issued its last command and `ph` is IDLE. A state in FAULTED or at a label
does not meet it. -/
def RunEnded (s : State) : Prop := s.ph = .idle ∧ ∀ turn ∈ s.turns, isCommandWrite turn = false

/-- The condition of `RunEnded`, to compute with. -/
def runEnded (s : State) : Bool := s.ph == .idle && s.turns.all fun turn => !isCommandWrite turn

/-- The end of the run from `s` (R215): the FIRST state of the run that meets the condition, if one of the first
`n` steps reaches it. The run stops there: what the line side does later is no part of it. -/
def runEnd : Nat → State → Option State
  | 0, s => if runEnded s then some s else none
  | n + 1, s =>
    if runEnded s then some s
    else match step s with
      | .next t => runEnd n t
      | .fault _ => none
      | .refused _ => none

/-- The run from `s` ends, in state `t`. A run that reaches FAULTED, or whose command never finishes, ends in no
state (R196, R197, R215). -/
def RunEndsIn (s t : State) : Prop := ∃ n, runEnd n s = some t

/-- A line-side event is allowed only when its guard holds (R112): along the run from `s`, until it ends, every
event that comes to the head of the schedule is enabled. -/
def EventsAllowed (s : State) : Prop :=
  ∀ n t e rest, runEnd n s = none → runSteps step n s = .next t → t.turns = .line e :: rest →
    lineEnabled Config.params e t = true

/-- The result of a run (R215): what is read of its end state. STA is given with RIDLE 0, a draw at a read. -/
structure RunResult where
  res : Word
  xcnt : Word
  fault : Word
  mem : List Host.Cell
  mode : Word
  sta : Word
  brg : Word
  rxf : List RxUnit
  txf : List Unit9
  tsr : Option TxRecord
  lineOut : List TxRecord
  deriving DecidableEq, Repr

/-- The result read of a state (R215). -/
def resultOf (s : State) : RunResult where
  res := s.res
  xcnt := xcntReg s
  fault := s.fault
  mem := s.mem
  mode := modeImage s
  sta := staImage Config.params s false
  brg := brgImage s
  rxf := s.rxf
  txf := s.txf
  tsr := s.tsr
  lineOut := s.lineOut

/-- The run of a host program from `s`, its line events all allowed, ends with the result `r` (R112, R215). -/
def ProgramResult (program : List HostLine) (s : State) (r : RunResult) : Prop :=
  EventsAllowed (s.withProgram program) ∧ ∃ t, RunEndsIn (s.withProgram program) t ∧ resultOf t = r

/-- `n` steps of command `i` with no other agent's step between them. -/
def runAlone (i : Instr) (n : Nat) (s : State) : Host.Outcome State Fault Refusal := runSteps (exec i) n s

/-! ## The invariant -/

/-- The labels of a command's micro-program (files 40 to 44); ErrorClear's belong to ERROR_GET and READ. -/
def labelsOf : Instr → List Phase
  | .initialise => [.i1, .i2, .i3, .i4]
  | .serialSetup _ _ _ _ => [.s1, .s2, .s3, .s4, .s5, .s6, .s7, .s8, .s9, .s10]
  | .errorGet => [.g1, .ec1, .ec2, .ec3, .ec4, .g2]
  | .read => [.r0, .r1, .ec1, .ec2, .ec3, .ec4, .r2, .r3, .r4, .r5, .r6]
  | .write => [.w0, .w1, .w2, .w3, .w4, .w5]
  | .writeByte => [.wb1, .wb2]
  | .readByte => [.rb1]
  | .txReady => [.p1]
  | .rxReady => [.p1]
  | .txComplete => [.p1]
  | .autobaudQuery => [.aq1]
  | .autobaudSet _ => [.as1]

/-- Labels reached with the peripheral off: after I.1 and before I.4's write, after S.5 and before S.9's. -/
def offLabel : Phase → Bool
  | .i2 | .i3 | .i4 | .s6 | .s7 | .s8 | .s9 => true
  | _ => false

/-- Labels reached after STA was seen with UTXBF = 0 and before the TXREG write (R155, R170). -/
def roomLabel : Phase → Bool
  | .w4 | .w5 | .wb2 => true
  | _ => false

/-- Labels of READ and WRITE after the unit width has been sampled (R150, R155). -/
def sampledLabel : Phase → Bool
  | .r3 | .r4 | .r5 | .r6 | .w2 | .w3 | .w4 | .w5 => true
  | _ => false

/-- Labels of READ and WRITE inside a pass, reached with `k ≠ OPB_L` (R150, R155). -/
def passLabel : Phase → Bool
  | .r4 | .r5 | .r6 | .w3 | .w4 | .w5 => true
  | _ => false

/-- Labels of READ and WRITE before the first pass, ErrorClear's aside. -/
def startLabel : Phase → Bool
  | .r0 | .r1 | .r2 | .w0 | .w1 => true
  | _ => false

/-- ErrorClear's labels (R141). -/
def clearLabel : Phase → Bool
  | .ec1 | .ec2 | .ec3 | .ec4 => true
  | _ => false

/-- Labels of SERIAL_SETUP between the snapshot and its restoration (R122). -/
def snapLabel : Phase → Bool
  | .s5 | .s6 | .s7 | .s8 | .s9 | .s10 => true
  | _ => false

/-- The FAULT bits a run can raise: all but TX_OVERFLOW and LIVE_RECONFIG (R191). -/
def reachableFaults : Word := 0x0000004F#32

/-- MODE's OTHER bits, 14:6 and 4 (R40). -/
def modeOther : Half := 0x7FD0#16

/-- What every run keeps, from reset on: the memory's canonical form, the FIFOs within their depths, the phase
a label of the latched command, the FAULT register's meaning, and what each label may rely on. -/
structure Inv (s : State) : Prop where
  /-- Buffer memory is in its canonical form. -/
  mem : Memory.wf s.mem
  /-- R50, R53. -/
  rxf : s.rxf.length ≤ Config.params.rxDepth
  txf : s.txf.length ≤ Config.params.txDepth
  /-- R22: IDLE, FAULTED, or a label of the latched command. -/
  phase : s.ph = .idle ∨ s.ph = .faulted ∨ ∃ i, decode s.cmdL = .command i ∧ s.ph ∈ labelsOf i
  /-- R28, R196: FAULTED exactly when a FAULT bit is set. -/
  faulted : s.ph = .faulted ↔ s.fault ≠ 0
  /-- R83, R84, R191: TX_OVERFLOW, LIVE_RECONFIG and the reserved bits are never set. -/
  faultBits : s.fault &&& ~~~reachableFaults = 0
  /-- R196, R210, R242: RES is 0 from acceptance until the command finishes. -/
  result : s.ph ≠ .idle → s.res = 0
  /-- R120, R122: the peripheral is off while its fields are rewritten. -/
  off : offLabel s.ph = true → modeOn s.mode = false
  /-- R122 S.6: what S.7 rewrites is MODE as it stands. -/
  readMode : s.ph = .s7 → s.t = modeImage s
  /-- R155, R170: the transmit FIFO has room where it is written. -/
  room : roomLabel s.ph = true → s.txf.length < Config.params.txDepth
  /-- R150, R155: `w` is the unit width MODE sets. -/
  width : sampledLabel s.ph = true → s.w = unitSize s.mode
  /-- R122: the divisor is computed for a nonzero baud rate. -/
  baud : s.ph = .s2 ∨ s.ph = .s3 → s.opaL ≠ 0
  /-- R214: the count is 0 before the first pass, below OPB_L inside a pass, at most OPB_L between. -/
  countStart : startLabel s.ph = true → s.k = 0
  countClear : clearLabel s.ph = true → decode s.cmdL = .command .read → s.k = 0
  countPass : passLabel s.ph = true → s.k.toNat < s.opbL.toNat
  countTest : s.ph = .r3 ∨ s.ph = .w2 → s.k.toNat ≤ s.opbL.toNat
  /-- R45: no command sets UTXBRK from 0; the snapshot then holds UTXEN and URXEN at most. -/
  noBreak : s.utxbrk = false
  snap : snapLabel s.ph = true → s.snap &&& ~~~(sUtxen ||| sUrxen) = 0
  /-- R40, R46: no command sets an OTHER bit. -/
  staOther : s.staLo = 0 ∧ s.staHi = 0
  modeOther : s.mode &&& Safety.modeOther = 0

/-! ## Parts of the state, for frames -/

/-- The units handed to the transmitter and not lost, oldest first: on the line, in TSR, in the transmit FIFO. -/
def transmitted (s : State) : List Unit9 :=
  s.lineOut.map TxRecord.data ++ (s.tsr.map TxRecord.data).toList ++ s.txf

/-- The value of the `size`-byte unit at an address, little-endian (R73, R77). -/
def bufferUnit (s : State) (size a : Nat) : Half :=
  if size = 2 then Memory.read s.mem (a + 1) ++ Memory.read s.mem a else (Memory.read s.mem a).setWidth 16

/-! ## Schedules without end, and fairness (R204) -/

/-- The state after `n` turns of an endless schedule, the machine staying where a turn stops it. -/
def stateAt (σ : Nat → Turn) (s : State) : Nat → State
  | 0 => s
  | n + 1 =>
    match takeTurn (σ n) (stateAt σ s n) with
    | .next t => t
    | _ => stateAt σ s n

/-- The sequencer has a step: `ph` is a label (R22). -/
def sequencerEnabled (s : State) : Prop := s.ph ≠ .idle ∧ s.ph ≠ .faulted

/-- An agent whose step is enabled from some point on takes it again and again. -/
def WeaklyFair (σ : Nat → Turn) (s : State) (turn : Turn) (enabled : State → Prop) : Prop :=
  ∀ n, (∀ m, n ≤ m → enabled (stateAt σ s m)) → ∃ m, n ≤ m ∧ σ m = turn

/-- The fairness of R204: the sequencer, transmit load and transmit done are weakly fair; the receiver, autobaud
completion and the host are under no law. -/
structure Fair (σ : Nat → Turn) (s : State) : Prop where
  sequencer : WeaklyFair σ s .sequencer sequencerEnabled
  load : WeaklyFair σ s (.line .load) (fun t => lineEnabled Config.params .load t = true)
  done : WeaklyFair σ s (.line .done) (fun t => lineEnabled Config.params .done t = true)

end Sys2Proof.Safety
end

