-- ==== Sys2Proof/Certificates/Slice0/Obligations.lean ====
section
/-! DEFINITION. The statements for the provers, from the numbered rules of spec/. A record update on the right
of `= .next` is the whole frame too: every field it does not name is unchanged. The field `draws` is the
model's own counter of draws (notes/assumptions/4.md) and `turns` its own schedule (notes/assumptions/1.md): a
statement leaves the counter's new value, and the drawn RIDLE bit of an image, to an existential. -/

open Sys2Proof Sys2Proof.Machine Sys2Proof.Safety

/-! ## Reset, steps and the invariant -/

/-- R60: the power-on state, and what a reset during a run leaves. The STA image is 0x100 (TRMT) but for RIDLE,
which is a draw. That an unlisted byte of memory reads 0, the schedule is empty and no draw is taken at power-on,
and that a reset keeps the schedule and the draw counter, are the model's own (notes/assumptions/6.md, 1.md, 4.md,
19.md) and no part of the claim. -/
def Obligations.PowerOnAndResetGiveTheTable : Prop :=
  let z := State.reset
  (z.ph = .idle ∧ z.cmd = 0 ∧ z.opa = 0 ∧ z.opb = 0 ∧ z.res = 0 ∧ statReg z = 0 ∧ z.fault = 0 ∧ xcntReg z = 0 ∧
    z.cmdL = 0 ∧ z.opaL = 0 ∧ z.opbL = 0 ∧ z.k = 0 ∧ z.w = 0 ∧ z.snap = 0 ∧ z.e = 0 ∧ z.clk = 0 ∧ z.d = 0 ∧
    z.t = 0 ∧ modeImage z = 0 ∧ brgImage z = 0 ∧ z.rxf = [] ∧ z.txf = [] ∧ z.tsr = none ∧ z.lineOut = [] ∧
    ∀ (P : Params) (ridle : Bool), staImage P z ridle = if ridle then 0x00000110#32 else 0x00000100#32) ∧
  ∀ s : State, ∃ t, takeTurn .reset s = .next t ∧
    t = { z with mem := s.mem, lineOut := s.lineOut, turns := t.turns, draws := t.draws }

/-- R220: reset is one step, possible at any time; it gives the values of R60, so that the command in progress is
abandoned without a result and FAULT is 0, and keeps buffer memory and LINE_OUT; no other step of any agent clears
a FAULT bit. -/
def Obligations.ResetRestoresTableAndAloneClearsFault : Prop :=
  ∀ s : State,
    (∃ t, takeTurn .reset s = .next t ∧
      t = { State.reset with mem := s.mem, lineOut := s.lineOut, turns := t.turns, draws := t.draws }) ∧
    ∀ (t : State) (turn : Turn), turn ≠ .reset → takeTurn turn s = .next t →
      ∀ i, s.fault.getLsbD i = true → t.fault.getLsbD i = true

/-- The invariant holds after power-on reset. -/
def Obligations.ResetMeetsInvariant : Prop := Inv State.reset

/-- Every step of every agent keeps the invariant, from every state that meets it. It holds the phase to the
latched command's labels, FAULT to `ph`, the FIFOs to their depths, the count to OPB_L, UTXBRK to 0, and
TX_OVERFLOW and LIVE_RECONFIG out of reach (R22, R83, R84, R191, R196, R214, R45). -/
def Obligations.StepKeepsInvariant : Prop :=
  ∀ s t : State, Inv s → step s = .next t → Inv t

/-- From a state that meets the invariant no step ends in a fault or a refusal of the model: every command of the
opcode table runs at each of its labels. -/
def Obligations.InvariantStatesAlwaysStep : Prop :=
  ∀ s : State, Inv s → ∃ t, step s = .next t

/-- Memory stays in its canonical form, whatever else the state is. -/
def Obligations.StepKeepsMemoryCanonical : Prop :=
  ∀ s t : State, Memory.wf s.mem → step s = .next t → Memory.wf t.mem

/-- A sequencer's turn at a label is the meaning of the latched command there, on the state with the turn taken
off the schedule; with nothing scheduled the sequencer steps (notes/assumptions/1.md). In IDLE and FAULTED the
sequencer has no step: its turn leaves the state (R22, R196; notes/assumptions/3.md). Any agent's scheduled turn
is taken on the state with the turn off the schedule. -/
def Obligations.StepRunsLatchedCommand : Prop :=
  ∀ s : State,
    (∀ i, s.ph ≠ .idle → s.ph ≠ .faulted → decode s.cmdL = .command i →
      (s.turns = [] → step s = exec i s) ∧
      ∀ rest, s.turns = .sequencer :: rest → step s = exec i { s with turns := rest }) ∧
    (s.ph = .idle ∨ s.ph = .faulted → (s.turns = [] → step s = .next s) ∧ takeTurn .sequencer s = .next s) ∧
    ∀ turn rest, s.turns = turn :: rest → step s = takeTurn turn { s with turns := rest }

/-- LINE_OUT records what the line has carried: no step of any agent takes a record back, a reset neither. -/
def Obligations.LineOutOnlyGrows : Prop :=
  ∀ s t : State, step s = .next t → s.lineOut.IsPrefix t.lineOut

/-- R71 with R72: a byte of buffer memory changes only by the host's write to it or by READ's R.6, and then it is
one of the `w` bytes at the unit's address. -/
def Obligations.MemoryChangesOnlyByHostOrReadStore : Prop :=
  ∀ (s t : State) (turn : Turn) (a : Nat), takeTurn turn s = .next t →
    Memory.read t.mem a ≠ Memory.read s.mem a →
    (∃ addr v, turn = .host (.writeMem addr v) ∧ addr.toNat = a) ∨
      (turn = .sequencer ∧ s.ph = .r6 ∧ decode s.cmdL = .command .read ∧ unitAddr s ≤ a ∧
        a < unitAddr s + s.w.toNat)

/-- R48, R60: the divisor changes only by INITIALIZE's I.3, SERIAL_SETUP's S.8, autobaud completion and reset. -/
def Obligations.DivisorChangesOnlyByItsWriters : Prop :=
  ∀ (s t : State) (turn : Turn), takeTurn turn s = .next t → t.brg ≠ s.brg →
    (turn = .sequencer ∧ s.ph = .i3 ∧ decode s.cmdL = .command .initialise) ∨
      (turn = .sequencer ∧ s.ph = .s8 ∧ ∃ cp wd par sb, decode s.cmdL = .command (.serialSetup cp wd par sb)) ∨
      (∃ v, turn = .line (.autobaud v)) ∨ turn = .reset

/-- R37, R182: MODE.ABAUD leaves 1 only by the line side's completion, by reset, or by INITIALIZE with ON = 0. -/
def Obligations.AutobaudBitLeavesOnlyByItsThreeWays : Prop :=
  ∀ (s t : State) (turn : Turn), Inv s → takeTurn turn s = .next t →
    modeAbaud s.mode = true → modeAbaud t.mode = false →
    (∃ v, turn = .line (.autobaud v)) ∨ turn = .reset ∨
      (turn = .sequencer ∧ s.ph = .i1 ∧ decode s.cmdL = .command .initialise ∧ modeOn s.mode = false)

/-- R156's order: what has been handed to the transmitter and not lost stays in order. Every turn but a disabling
command's write and a reset leaves the sequence of units on the line, in TSR and in TXF as it is, or appends
one unit at its end. -/
def Obligations.TransmittedUnitsStayInOrder : Prop :=
  ∀ (s t : State) (turn : Turn), turn ≠ .reset → takeTurn turn s = .next t →
    (turn = .sequencer → s.ph ≠ .i1 ∧ s.ph ≠ .s5 ∧ s.ph ≠ .s7) →
    transmitted t = transmitted s ∨ ∃ u, transmitted t = transmitted s ++ [u]

/-- R204: under a fair schedule a unit in the shift register does not stay for ever. -/
def Obligations.FairScheduleEmptiesShiftRegister : Prop :=
  ∀ (σ : Nat → Turn) (s : State), Fair σ s → ∀ n, ∃ m, n ≤ m ∧ (stateAt σ s m).tsr = none

/-! ## Encoding -/

/-- R109, R110: a word decodes to a command exactly when it is the encoding of that command and the command is
well-formed: no bit is dropped, and no two words mean one command. -/
def Obligations.DecodeEncodeAgree : Prop :=
  ∀ (W : Word) (i : Instr), decode W = .command i ↔ (i.wellFormed = true ∧ W = encode i)

/-- R110: the illegal words are exactly those with an opcode 0xC to 0xF, a nonzero Z, a bit set in the format's
must-be-0 range, or format S with CP = 1 and PAR = 0b11. Acceptance finishes one at once with STATUS ILLEGAL and
REASON ILLEGAL_ENCODING and touches nothing else. The excluded pair is not illegal: it decodes, and S.1 rejects it. -/
def Obligations.IllegalWordsAreExactlyTheListed : Prop :=
  (∀ W : Word, (∃ why, decode W = .illegal why) ↔
    (12 ≤ (W.extractLsb' 0 4).toNat ∨ W.extractLsb' 4 4 ≠ 0 ∨
      (W.extractLsb' 0 4 = 0x1#4 ∧ (W.extractLsb' 13 19 ≠ 0 ∨ (W.getLsbD 8 = true ∧ W.extractLsb' 10 2 = 0b11#2))) ∨
      (W.extractLsb' 0 4 = 0xB#4 ∧ W.extractLsb' 9 23 ≠ 0) ∨
      (W.extractLsb' 0 4 ≠ 0x1#4 ∧ W.extractLsb' 0 4 ≠ 0xB#4 ∧ W.extractLsb' 8 24 ≠ 0))) ∧
  (∀ (W : Word) (why : IllegalWord) (s : State), decode W = .illegal why → s.ph = .idle →
    takeTurn (.host (.writePort offCmd W)) s = .next { s with
      cmd := W, cmdL := W, opaL := s.opa, opbL := s.opb, res := 0x00000063#32 }) ∧
  ∀ (par : BitVec 2) (sb : Bool) (s : State), par = 0b01#2 ∨ par = 0b10#2 →
    decode (0x00000301#32 ||| (par.setWidth 32 <<< 10) ||| ((BitVec.ofBool sb).setWidth 32 <<< 12)) =
        .command (.serialSetup true true par sb) ∧
      (s.ph = .s1 → exec (.serialSetup true true par sb) s = .next { s with ph := .idle, res := 0x00000022#32 })

/-- R115: every row of the table of encodings. -/
def Obligations.WordsOfTheEncodingTableDecode : Prop :=
  decode 0x00000000#32 = .command .initialise ∧
    decode 0x00000001#32 = .command (.serialSetup false false 0b00#2 false) ∧
    decode 0x00000101#32 = .command (.serialSetup true false 0b00#2 false) ∧
    decode 0x00000501#32 = .command (.serialSetup true false 0b01#2 false) ∧
    decode 0x00000901#32 = .command (.serialSetup true false 0b10#2 false) ∧
    decode 0x00001101#32 = .command (.serialSetup true false 0b00#2 true) ∧
    decode 0x00000301#32 = .command (.serialSetup true true 0b00#2 false) ∧
    decode 0x00000701#32 = .command (.serialSetup true true 0b01#2 false) ∧
    decode 0x00001B01#32 = .command (.serialSetup true true 0b10#2 true) ∧
    decode 0x00000002#32 = .command .errorGet ∧ decode 0x00000003#32 = .command .read ∧
    decode 0x00000004#32 = .command .write ∧ decode 0x00000005#32 = .command .writeByte ∧
    decode 0x00000006#32 = .command .readByte ∧ decode 0x00000007#32 = .command .txReady ∧
    decode 0x00000008#32 = .command .rxReady ∧ decode 0x00000009#32 = .command .txComplete ∧
    decode 0x0000000A#32 = .command .autobaudQuery ∧ decode 0x0000000B#32 = .command (.autobaudSet false) ∧
    decode 0x0000010B#32 = .command (.autobaudSet true)

/-- R112: a configuration line of the assembler encodes the line configuration it spells: present, with its width,
parity and stop bits. -/
def Obligations.AssembledConfigurationDecodesToItself : Prop :=
  ∀ (nine : Bool) (p : Parity) (two : Bool) (baud clk : Word),
    ∃ par, decode (AsmLine.serialSetup (.line nine p two) baud clk).assemble.word =
        .command (.serialSetup true nine par two) ∧
      lineConfigOfFields nine par two = ⟨if nine then 9 else 8, p, if two then 2 else 1⟩ ∧
      (AsmLine.serialSetup (.line nine p two) baud clk).assemble.opa = some baud ∧
      (AsmLine.serialSetup (.line nine p two) baud clk).assemble.opb = some clk

/-! ## The host port -/

/-- R210: a write to CMD in IDLE latches the word and the operands and clears RES; an illegal word finishes at once
with RES = 0x00000063 and no other effect; a command clears `k` if it is READ or WRITE and goes to its first
label. Writes to OPA and OPB are plain register writes at any time; host reads have no side effect. -/
def Obligations.CommandWriteInIdleIsAcceptance : Prop :=
  (∀ (s : State) (W : Word), s.ph = .idle →
    (∀ why, decode W = .illegal why → takeTurn (.host (.writePort offCmd W)) s = .next { s with
      cmd := W, cmdL := W, opaL := s.opa, opbL := s.opb, res := 0x00000063#32 }) ∧
    (∀ i, decode W = .command i → takeTurn (.host (.writePort offCmd W)) s = .next { s with
      cmd := W, cmdL := W, opaL := s.opa, opbL := s.opb, res := 0
      k := if i = .read ∨ i = .write then 0 else s.k, ph := firstLabel i })) ∧
  (firstLabel .initialise = .i1 ∧ (∀ cp wd par sb, firstLabel (.serialSetup cp wd par sb) = .s1) ∧
    firstLabel .errorGet = .g1 ∧ firstLabel .read = .r0 ∧ firstLabel .write = .w0 ∧
    firstLabel .writeByte = .wb1 ∧ firstLabel .readByte = .rb1 ∧ firstLabel .txReady = .p1 ∧
    firstLabel .rxReady = .p1 ∧ firstLabel .txComplete = .p1 ∧ firstLabel .autobaudQuery = .aq1 ∧
    ∀ en, firstLabel (.autobaudSet en) = .as1) ∧
  ∀ (s : State) (v : Word), takeTurn (.host (.writePort offOpa v)) s = .next { s with opa := v } ∧
    takeTurn (.host (.writePort offOpb v)) s = .next { s with opb := v } ∧
    ∀ off, takeTurn (.host (.readPort off)) s = .next s

/-- R211, R196: a write to CMD at a label is not performed and raises CMD_WHILE_BUSY; in FAULTED it is ignored. -/
def Obligations.CommandWriteWhileBusyFaults : Prop :=
  ∀ (s : State) (W : Word),
    (s.ph ≠ .idle → s.ph ≠ .faulted → takeTurn (.host (.writePort offCmd W)) s =
      .next { s with fault := s.fault ||| 0x00000001#32, ph := .faulted }) ∧
    (s.ph = .faulted → takeTurn (.host (.writePort offCmd W)) s = .next s)

/-- R25, R27, R29: what the host reads at each offset and what it writes at every offset but CMD's. -/
def Obligations.HostPortReadsAndWrites : Prop :=
  ∀ s : State,
    hostRead 0x00 s = s.cmd ∧ hostRead 0x04 s = s.opa ∧ hostRead 0x08 s = s.opb ∧ hostRead 0x0C s = s.res ∧
    (hostRead 0x10 s = if s.ph = .idle then 0 else if s.ph = .faulted then 3 else 1) ∧
    hostRead 0x14 s = s.fault ∧ hostRead 0x18 s = s.k ∧
    (∀ off, off ∉ [0x00, 0x04, 0x08, 0x0C, 0x10, 0x14, 0x18] → hostRead off s = 0) ∧
    (∀ off, takeTurn (.host (.readPort off)) s = .next s) ∧
    (∀ v, takeTurn (.host (.writePort 0x04 v)) s = .next { s with opa := v }) ∧
    (∀ v, takeTurn (.host (.writePort 0x08 v)) s = .next { s with opb := v }) ∧
    ∀ off v, off ∉ [0x00, 0x04, 0x08] → takeTurn (.host (.writePort off v)) s = .next s

/-- R212: a host write to a byte of the buffer of a READ or WRITE in progress is performed and raises
HOST_BUFFER_WRITE; before R.2 or W.1 has sampled the width the range is that of 2-byte units; any other write
of memory is only performed, and a read has no effect. Derived: that the range is the wider one up to and at R.2 and
W.1 is the model's reading (notes/assumptions/15.md), and that a host write is one byte, performed at any address
whatever MemAdmit says, is the model's choice (notes/assumptions/12.md). -/
def Obligations.HostWriteIntoOwnedBufferFaults : Prop :=
  ∀ (s : State) (addr : Word) (v : Byte),
    let size := if s.ph ∈ [.r0, .r1, .ec1, .ec2, .ec3, .ec4, .r2, .w0, .w1] then 2 else s.w.toNat
    let owned := s.ph ≠ .idle ∧ s.ph ≠ .faulted ∧ (decode s.cmdL = .command .read ∨ decode s.cmdL = .command .write) ∧
      s.opaL.toNat ≤ addr.toNat ∧ addr.toNat < s.opaL.toNat + size * s.opbL.toNat
    (owned → takeTurn (.host (.writeMem addr v)) s = .next { s with
      mem := Memory.write s.mem addr.toNat v, fault := s.fault ||| 0x00000040#32, ph := .faulted }) ∧
    (¬owned → takeTurn (.host (.writeMem addr v)) s = .next { s with mem := Memory.write s.mem addr.toNat v }) ∧
    takeTurn (.host (.readMem addr)) s = .next s

/-- R112, R211: the host of a host program writes CMD only after a poll that read BUSY = 0, so in the run of every host
program, whatever its lines and line events, CMD_WHILE_BUSY is never raised. Derived: that the sequencer steps
between two polls is the model's choice (notes/assumptions/24.md). -/
def Obligations.PollingHostNeverFaultsBusy : Prop :=
  ∀ (program : List HostLine) (s : State), s.ph = .idle → s.fault.getLsbD 0 = false →
    ∀ n t, runSteps step n (s.withProgram program) = .next t →
      t.fault.getLsbD 0 = false

/-! ## Buffer memory and the register bus -/

/-- R73, R74, R77: in memory of the canonical form a unit written is read back, little-endian, and no byte outside
it moves. -/
def Obligations.BufferWriteThenRead : Prop :=
  ∀ (P : Params) (s t : State) (addr n : Nat) (v : Half), (n = 1 ∨ n = 2) → Memory.wf s.mem →
    memWrite P addr n v s = .ok t →
    Memory.read t.mem addr = v.extractLsb' 0 8 ∧ (n = 2 → Memory.read t.mem (addr + 1) = v.extractLsb' 8 8) ∧
      memRead P addr n t = .ok (if n = 2 then v else v &&& 0x00FF#16) ∧
      (∀ a, a < addr ∨ addr + n ≤ a → Memory.read t.mem a = Memory.read s.mem a) ∧
      t = { s with mem := t.mem }

/-- R75, R76: a 2-byte access at an odd address raises MISALIGNED first; one past 2^32 - 1 or not admitted raises
MEM_REFUSED; every other access is performed. -/
def Obligations.BufferAccessChecksInOrder : Prop :=
  ∀ (P : Params) (s : State) (addr n : Nat) (v : Half), (n = 1 ∨ n = 2) →
    if n = 2 ∧ addr % 2 = 1 then
      memRead P addr n s = .error .misaligned ∧ memWrite P addr n v s = .error .misaligned
    else if addr + n - 1 ≤ 2 ^ 32 - 1 ∧ P.memAdmit addr n = true then
      (∃ u, memRead P addr n s = .ok u) ∧ ∃ t, memWrite P addr n v s = .ok t
    else memRead P addr n s = .error .memRefused ∧ memWrite P addr n v s = .error .memRefused

/-- R82: each alias write is the plain write of its candidate image (for STA, on what can be stored). -/
def Obligations.AliasWritesArePlainWritesOfTheirCandidate : Prop :=
  ∀ (P : Params) (s : State) (v : Word) (ridle : Bool),
    regWrite P .modeClr v s = regWrite P .mode (modeImage s &&& ~~~v) s ∧
    regWrite P .modeSet v s = regWrite P .mode (modeImage s ||| v) s ∧
    regWrite P .modeInv v s = regWrite P .mode (modeImage s ^^^ v) s ∧
    regWrite P .staClr v s = regWrite P .sta (staImage P s ridle &&& ~~~v) s ∧
    regWrite P .staSet v s = regWrite P .sta (staImage P s ridle ||| v) s ∧
    regWrite P .staInv v s = regWrite P .sta (staImage P s ridle ^^^ v) s

/-- R81, R42: a plain STA write stores only the bits of WMASK_STA, can clear OERR and never set it, and leaves
MODE, BRG, TXF, TSR and LINE_OUT; reading STA back shows the stored bits. -/
def Obligations.StatusWritesStoreOnlyWritableBits : Prop :=
  ∀ (P : Params) (s t : State) (v : Word) (ridle : Bool), regWrite P .sta v s = .ok t →
    staImage P t ridle &&& 0x01FFFCE0#32 = v &&& 0x01FFFCE0#32 ∧ t.oerr = (s.oerr && v.getLsbD 1) ∧
      t.mode = s.mode ∧ t.brg = s.brg ∧ t.txf = s.txf ∧ t.tsr = s.tsr ∧ t.lineOut = s.lineOut ∧
      (t.rxf = s.rxf ∨ (t.rxf = [] ∧ s.oerr = true ∧ t.oerr = false))

/-- R83: the two checks of a MODE write, in order, and of a BRG write; a write they refuse is not performed, any
other is. -/
def Obligations.ModeAndDivisorWriteChecks : Prop :=
  ∀ (P : Params) (s : State) (v : Word),
    let new : Half := v.setWidth 16
    let clearsAutobaud := modeOn s.mode = true ∧ modeAbaud s.mode = true ∧ modeAbaud new = false
    let reconfigures := modeOn s.mode = true ∧ modeOn new = true ∧ (modePdsel new ≠ modePdsel s.mode ∨
      modeStsel new ≠ modeStsel s.mode ∨ modeBrgh new ≠ modeBrgh s.mode)
    (clearsAutobaud → regWrite P .mode v s = .error .abaudCleared) ∧
    (¬clearsAutobaud → reconfigures → regWrite P .mode v s = .error .liveReconfig) ∧
    (¬clearsAutobaud → ¬reconfigures → ∃ t, regWrite P .mode v s = .ok t ∧ t.mode = new) ∧
    (modeOn s.mode = true → regWrite P .brg v s = .error .liveReconfig) ∧
    (modeOn s.mode = false → regWrite P .brg v s = .ok { s with brg := v.setWidth 16 })

/-- R84: a TXREG write appends the unit TXREG keeps, or faults when the transmit FIFO is full. -/
def Obligations.TransmitRegisterWriteAppendsOrFaults : Prop :=
  ∀ (P : Params) (s : State) (v : Word),
    (s.txf.length = P.txDepth → regWrite P .txreg v s = .error .txOverflow) ∧
    (s.txf.length ≠ P.txDepth → regWrite P .txreg v s = .ok { s with
      txf := s.txf ++ [if modePdsel s.mode = 0b11#2 then v.extractLsb' 0 9 else (v.extractLsb' 0 8).setWidth 9] })

/-- R85: a write, to whatever register, that turns ON from 1 to 0 clears UTXEN, URXEN and UTXBRK and, by
DISABLE_FLUSH, keeps the FIFOs, TSR and the overrun latch or empties them together; one that turns ON from 0 to 1 has
no effect beyond MODE. -/
def Obligations.DisableClearsEnablesAndMayFlush : Prop :=
  ∀ (P : Params) (r : Reg) (v : Word) (s t : State), regWrite P r v s = .ok t →
    (modeOn s.mode = true → modeOn t.mode = false →
      t = { s with
        mode := t.mode, utxen := false, urxen := false, utxbrk := false
        rxf := t.rxf, oerr := t.oerr, txf := t.txf, tsr := t.tsr, draws := t.draws } ∧
      ((t.rxf = s.rxf ∧ t.oerr = s.oerr ∧ t.txf = s.txf ∧ t.tsr = s.tsr) ∨
        (t.rxf = [] ∧ t.oerr = false ∧ t.txf = [] ∧ t.tsr = none)) ∧
      (P.disableFlush = .keep → t.rxf = s.rxf ∧ t.oerr = s.oerr ∧ t.txf = s.txf ∧ t.tsr = s.tsr) ∧
      (P.disableFlush = .flush → t.rxf = [] ∧ t.oerr = false ∧ t.txf = [] ∧ t.tsr = none)) ∧
    (modeOn s.mode = false → modeOn t.mode = true → t = { s with mode := t.mode })

/-- R86: a write that clears OERR, ON staying as it was, keeps or empties the receive FIFO by OERR_CLEAR_FLUSH, leaves
the transmit side, and the receiver is enabled again when ON and URXEN are 1. -/
def Obligations.OverrunClearMayFlushAndResumesReception : Prop :=
  ∀ (P : Params) (r : Reg) (v : Word) (s t : State), regWrite P r v s = .ok t →
    s.oerr = true → t.oerr = false → modeOn t.mode = modeOn s.mode →
    (t.rxf = s.rxf ∨ t.rxf = []) ∧ (P.oerrClearFlush = .keep → t.rxf = s.rxf) ∧
      (P.oerrClearFlush = .flush → t.rxf = []) ∧ t.txf = s.txf ∧ t.tsr = s.tsr ∧ t.mode = s.mode ∧ t.brg = s.brg ∧
      ∀ data fe pe, modeOn t.mode = true → t.urxen = true → lineEnabled P (.rx data fe pe) t = true

/-! ## The line side -/

/-- R200: receive, for every parameter choice: with ON = 1, URXEN = 1 and OERR = 0 the unit enters the FIFO, bit 8
cleared unless PDSEL = 0b11 and no parity error without parity, or is lost with OERR set. Derived: R200 says only
that the event cannot occur with its guard false; that its turn then leaves the state is the model's choice
(notes/assumptions/2.md). -/
def Obligations.ReceiveEventFillsFifoOrOverruns : Prop :=
  ∀ (P : Params) (s : State) (data : Unit9) (fe pe : Bool),
    let u : RxUnit := ⟨if modePdsel s.mode = 0b11#2 then data else data &&& 0x0FF#9, fe,
      if modePdsel s.mode = 0b00#2 ∨ modePdsel s.mode = 0b11#2 then false else pe⟩
    lineTurn P (.rx data fe pe) s =
      if modeOn s.mode = true ∧ s.urxen = true ∧ s.oerr = false then
        (if s.rxf.length < P.rxDepth then { s with rxf := s.rxf ++ [u] } else { s with oerr := true })
      else s

/-- R201: transmit load. Derived: that its turn leaves the state when its guard is false is the model's choice
(notes/assumptions/2.md). -/
def Obligations.TransmitLoadRecordsConfiguration : Prop :=
  ∀ (P : Params) (s : State),
    (∀ u rest, s.txf = u :: rest → modeOn s.mode = true → s.utxen = true → s.tsr = none →
      lineTurn P .load s = { s with
        txf := rest, tsr := some ⟨u, modePdsel s.mode, modeStsel s.mode, modeBrgh s.mode, s.brg⟩ }) ∧
    (¬(modeOn s.mode = true ∧ s.utxen = true ∧ s.tsr = none ∧ s.txf ≠ []) → lineTurn P .load s = s)

/-- R202: transmit done asks nothing of ON or UTXEN. Derived: that its turn leaves the state when TSR is idle is the
model's choice (notes/assumptions/2.md). -/
def Obligations.TransmitDoneAppendsToLine : Prop :=
  ∀ (P : Params) (s : State),
    (∀ u, s.tsr = some u → lineTurn P .done s = { s with lineOut := s.lineOut ++ [u], tsr := none }) ∧
    (s.tsr = none → lineTurn P .done s = s)

/-- R203: autobaud completion sets BRG and clears ABAUD, and only ABAUD, together, and is no register write: ABAUD_CLEARED
is not raised. Receive events stay enabled while ABAUD = 1. Derived: that its turn leaves the state when its guard is
false is the model's choice (notes/assumptions/2.md). -/
def Obligations.AutobaudCompletionSetsDivisorClearsBit : Prop :=
  ∀ (P : Params) (s : State) (v : Half),
    (P.autobaudHw = true → modeOn s.mode = true → modeAbaud s.mode = true →
      lineTurn P (.autobaud v) s = { s with brg := v, mode := s.mode &&& 0xFFDF#16 }) ∧
    (¬(P.autobaudHw = true ∧ modeOn s.mode = true ∧ modeAbaud s.mode = true) → lineTurn P (.autobaud v) s = s) ∧
    ∀ data fe pe, modeAbaud s.mode = true → modeOn s.mode = true → s.urxen = true → s.oerr = false →
      lineEnabled P (.rx data fe pe) s = true

/-! ## INITIALIZE -/

/-- R120: at I.1 with ON = 1 and ABAUD = 1 INITIALIZE raises ABAUD_CLEARED, MODE and RES left as they were. Otherwise
its four steps, none followed by another agent's, end OK with MODE = 0x8008, BRG = INIT_BRG, transmit and receive
enabled; a peripheral that was off keeps its FIFOs, TSR, OERR and UTXBRK; one that was on has UTXBRK cleared and,
by DISABLE_FLUSH, may be flushed; memory, LINE_OUT and STA's OTHER bits stay. -/
def Obligations.InitializeProgramsDefaultOrFaults : Prop :=
  ∀ s : State, s.ph = .i1 →
    (modeOn s.mode = true ∧ modeAbaud s.mode = true →
      exec .initialise s = .next { s with fault := s.fault ||| 0x00000008#32, ph := .faulted }) ∧
    (¬(modeOn s.mode = true ∧ modeAbaud s.mode = true) →
      ∃ s1 s2 s3 t, exec .initialise s = .next s1 ∧ exec .initialise s1 = .next s2 ∧
        exec .initialise s2 = .next s3 ∧ exec .initialise s3 = .next t ∧
        s1.ph = .i2 ∧ s1.mode = 0x0008#16 ∧ s2.ph = .i3 ∧ s2.utxen = true ∧ s2.urxen = true ∧
        s3.ph = .i4 ∧ s3.brg = Config.params.initBrg ∧ modeOn s3.mode = false ∧
        t = { s with
          ph := .idle, res := 0x00000001#32, mode := 0x8008#16, brg := Config.params.initBrg
          utxen := true, urxen := true, utxbrk := if modeOn s.mode = true then false else s.utxbrk
          rxf := t.rxf, oerr := t.oerr, txf := t.txf, tsr := t.tsr, draws := t.draws } ∧
        ((t.rxf = s.rxf ∧ t.oerr = s.oerr ∧ t.txf = s.txf ∧ t.tsr = s.tsr) ∨
          (modeOn s.mode = true ∧ t.rxf = [] ∧ t.oerr = false ∧ t.txf = [] ∧ t.tsr = none)) ∧
        (Config.params.disableFlush = .keep →
          t.rxf = s.rxf ∧ t.oerr = s.oerr ∧ t.txf = s.txf ∧ t.tsr = s.tsr) ∧
        (modeOn s.mode = true → Config.params.disableFlush = .flush →
          t.rxf = [] ∧ t.oerr = false ∧ t.txf = [] ∧ t.tsr = none))

/-! ## SERIAL_SETUP -/

/-- R122 S.1, R193: the validation in order. A failure writes RES and `ph` only (R125). -/
def Obligations.SetupValidationInOrder : Prop :=
  ∀ (s : State) (cp wd : Bool) (par : BitVec 2) (sb : Bool), s.ph = .s1 →
    (Instr.serialSetup cp wd par sb).wellFormed = true →
    exec (.serialSetup cp wd par sb) s = .next
      (if cp = false then { s with ph := .idle, res := 0x00000012#32 }
      else if s.opaL = 0 ∨ (wd = true ∧ par ≠ 0b00#2) then { s with ph := .idle, res := 0x00000022#32 }
      else if s.opbL = 0 then { s with clk := 0, ph := .s2 } else { s with clk := s.opbL, ph := .s3 })

/-- R122 S.2 and S.3, R31, R123: a zero clock operand takes the clock port's answer; the divisor is
`(clk/4 + baud/2)/baud - 1` when it lies in 0 to 65535, and else the command fails BAUD_UNATTAINABLE, writing
RES and `ph` only (R125). -/
def Obligations.SetupResolvesClockAndDivisor : Prop :=
  ∀ (s : State) (cp wd : Bool) (par : BitVec 2) (sb : Bool),
    (Instr.serialSetup cp wd par sb).wellFormed = true →
    (s.ph = .s2 → exec (.serialSetup cp wd par sb) s = .next { s with clk := Config.params.clkDefault, ph := .s3 }) ∧
    (s.ph = .s3 → s.opaL ≠ 0 →
      let q := (s.clk.toNat / 4 + s.opaL.toNat / 2) / s.opaL.toNat
      exec (.serialSetup cp wd par sb) s = .next
        (if 1 ≤ q ∧ q ≤ 65536 then { s with d := BitVec.ofNat 16 (q - 1), ph := .s4 }
        else { s with ph := .idle, res := 0x00000032#32 }))

/-- R122, R127, for steps of the sequencer alone: from S.4 with the divisor computed, the seven programming steps, none followed by
another agent's, end OK: PDSEL
and STSEL are the configuration's, ON is 1, every other MODE bit is as it was, BRG is the divisor, and UTXEN,
UTXBRK and URXEN have the values they had at S.4; a peripheral that was off keeps its FIFOs, TSR and OERR, one
that was on may be flushed; memory, LINE_OUT and STA's OTHER bits stay. -/
def Obligations.SetupReprogramsAndPreservesEnables : Prop :=
  ∀ (s : State) (wd : Bool) (par : BitVec 2) (sb : Bool), s.ph = .s4 → par ≠ 0b11#2 →
    ∃ s1 s2 s3 s4 s5 s6 t, exec (.serialSetup true wd par sb) s = .next s1 ∧
      exec (.serialSetup true wd par sb) s1 = .next s2 ∧ exec (.serialSetup true wd par sb) s2 = .next s3 ∧
      exec (.serialSetup true wd par sb) s3 = .next s4 ∧ exec (.serialSetup true wd par sb) s4 = .next s5 ∧
      exec (.serialSetup true wd par sb) s5 = .next s6 ∧ exec (.serialSetup true wd par sb) s6 = .next t ∧
      modeOn s2.mode = false ∧ modeOn s5.mode = false ∧
      modePdsel t.mode = (if wd then 0b11#2 else par) ∧ modeStsel t.mode = sb ∧ modeOn t.mode = true ∧
      (∀ i, 3 ≤ i → i ≠ 15 → t.mode.getLsbD i = s.mode.getLsbD i) ∧
      t = { s with
        ph := .idle, res := 0x00000001#32, mode := t.mode, brg := s.d, snap := t.snap, t := t.t
        rxf := t.rxf, oerr := t.oerr, txf := t.txf, tsr := t.tsr, draws := t.draws } ∧
      ((t.rxf = s.rxf ∧ t.oerr = s.oerr ∧ t.txf = s.txf ∧ t.tsr = s.tsr) ∨
        (modeOn s.mode = true ∧ t.rxf = [] ∧ t.oerr = false ∧ t.txf = [] ∧ t.tsr = none))

/-- R123: the divisor of a 32-bit clock and a nonzero 32-bit baud rate, and its laws: no 32-bit overflow; -1 exactly when
`clk/4 < baud - baud/2`, which every `clk < 4` meets; in range exactly when `q` is 1 to 65536; `q` is `clk/4` over
the baud rate rounded to nearest, a tie, possible only for an even baud rate, rounding up. -/
def Obligations.DivisorIsRoundedToNearest : Prop :=
  (∀ clk baud : Nat, clk < 2 ^ 32 → 1 ≤ baud → baud < 2 ^ 32 →
    let q := (clk / 4 + baud / 2) / baud
    let dv := (baudDiv clk baud).2
    dv = (q : Int) - 1 ∧ ((baudDiv clk baud).1 = true ↔ 0 ≤ dv ∧ dv ≤ 65535) ∧
      clk / 4 + baud / 2 ≤ (2 ^ 30 - 1) + (2 ^ 31 - 1) ∧
      (dv = -1 ↔ clk / 4 < baud - baud / 2) ∧ (clk < 4 → dv = -1) ∧ (dv ≤ 65535 ↔ q ≤ 65536) ∧
      |((clk / 4 : Nat) : Int) - (q : Int) * (baud : Int)| ≤ ((baud / 2 : Nat) : Int) ∧
      ∀ m, 2 * (clk / 4) = (2 * m + 1) * baud → baud % 2 = 0 ∧ q = m + 1) ∧
  baudDiv 262143 1 = (true, 65534)

/-- R124, R121: reading MODE's fields back after S.7's rewrite gives the logical configuration of the command's
fields. -/
def Obligations.ConfigurationReadsBack : Prop :=
  ∀ (t : Word) (wd : Bool) (par : BitVec 2) (sb : Bool), par ≠ 0b11#2 → (wd = true → par = 0b00#2) →
    lineConfigOf ((setupMode t wd par sb).setWidth 16) = lineConfigOfFields wd par sb

/-! ## ERROR_GET -/

/-- R140 G.1: with no error flag set ERROR_GET finishes OK with VALUE 0 and changes no register or FIFO. -/
def Obligations.ErrorGetWithoutErrorLeavesPeripheral : Prop :=
  ∀ s : State, s.ph = .g1 → s.oerr = false → ferr Config.params s = false → perr Config.params s = false →
    ∃ (ridle : Bool) (n : Nat), exec .errorGet s = .next { s with
      ph := .idle, res := 0x00000001#32, e := 0, t := staImage Config.params s ridle, draws := n }

/-- R140, R141, R142: with an error flag set and no other agent's step, ERROR_GET ends OK with VALUE the bitset read at G.1 (bit 1
overrun, bit 2 framing, bit 3 parity), the receive FIFO empty and OERR, FERR, PERR 0; MODE, BRG, the enables, the transmit side and
memory are unchanged. -/
def Obligations.ErrorGetReportsThenClears : Prop :=
  ∀ s : State, s.ph = .g1 → (s.oerr = true ∨ ferr Config.params s = true ∨ perr Config.params s = true) →
    ∃ n t, runAlone .errorGet n s = .next t ∧
      t = { s with ph := .idle, res := t.res, e := t.e, t := t.t, oerr := false, rxf := [], draws := t.draws } ∧
      t.res = resWord .ok .none (0#12 ++ BitVec.ofBool (perr Config.params s) ++
        BitVec.ofBool (ferr Config.params s) ++ BitVec.ofBool s.oerr ++ 0#1) ∧
      ferr Config.params t = false ∧ perr Config.params t = false

/-- R141: ErrorClear's four steps, inside ERROR_GET (going on at G.2) and inside READ (at R.2). -/
def Obligations.ErrorClearSteps : Prop :=
  ∀ (s : State) (i : Instr) (back : Phase), (i = .errorGet ∧ back = .g2) ∨ (i = .read ∧ back = .r2) →
    (s.ph = .ec1 → ∃ (ridle : Bool) (n : Nat), exec i s = .next { s with
      t := staImage Config.params s ridle, draws := n, ph := if s.oerr = true then .ec2 else .ec3 }) ∧
    (s.ph = .ec2 → ∃ t, exec i s = .next t ∧
      t = { s with oerr := false, ph := .ec3, rxf := t.rxf, draws := t.draws } ∧
      (t.rxf = s.rxf ∨ (s.oerr = true ∧ t.rxf = [])) ∧
      (Config.params.oerrClearFlush = .keep → t.rxf = s.rxf) ∧
      (s.oerr = true → Config.params.oerrClearFlush = .flush → t.rxf = [])) ∧
    (s.ph = .ec3 → ∃ (ridle : Bool) (n : Nat), exec i s = .next { s with
      t := staImage Config.params s ridle, draws := n, ph := if s.rxf = [] then back else .ec4 }) ∧
    (s.ph = .ec4 → ∃ t, exec i s = .next t ∧
      t = { s with ph := .ec3, rxf := s.rxf.tail, draws := t.draws })

/-! ## READ -/

/-- R150 R.0 to R.3: the null buffer fails with no access; the pre-clear by READ_PRECLEAR; the width sampled once from MODE; the
count reached finishes OK. -/
def Obligations.ReadStartsAndFinishes : Prop :=
  ∀ s : State,
    (s.ph = .r0 → exec .read s = .next
      (if s.opaL = 0 then { s with ph := .idle, res := 0x00000042#32 }
      else { s with ph := if Config.params.readPreclear = .always then .ec1 else .r1 })) ∧
    (s.ph = .r1 → ∃ (ridle : Bool) (n : Nat), exec .read s = .next { s with
      t := staImage Config.params s ridle, draws := n
      ph := if s.oerr = true ∨ ferr Config.params s = true ∨ perr Config.params s = true then .ec1 else .r2 }) ∧
    (s.ph = .r2 → exec .read s = .next { s with
      t := modeImage s, w := if modePdsel s.mode = 0b11#2 then 2 else 1, ph := .r3 }) ∧
    (s.ph = .r3 → exec .read s = .next
      (if s.k = s.opbL then { s with ph := .idle, res := 0x00000001#32 } else { s with ph := .r4 }))

/-- R150 R.4 and R.5, R193: any error flag finishes FAIL LINE_ERROR before the data test, leaving the flags and the FIFO; no data waits;
data pops the head unit. R.5 on an empty FIFO, which R.4 never leads to, takes a drawn unit (R80). -/
def Obligations.ReadPollsErrorBeforeData : Prop :=
  ∀ s : State,
    (s.ph = .r4 → ∃ (ridle : Bool) (n : Nat),
      let sta := staImage Config.params s ridle
      exec .read s = .next
        (if s.oerr = true ∨ ferr Config.params s = true ∨ perr Config.params s = true then
          { s with t := sta, draws := n, ph := .idle, res := 0x00000052#32 }
        else if s.rxf = [] then { s with t := sta, draws := n, ph := .r4 }
        else { s with t := sta, draws := n, ph := .r5 })) ∧
    (s.ph = .r5 → ∀ u rest, s.rxf = u :: rest →
      exec .read s = .next { s with t := u.data.setWidth 32, rxf := rest, ph := .r6 }) ∧
    (s.ph = .r5 → s.rxf = [] → ∃ (v : Unit9) (n : Nat),
      exec .read s = .next { s with t := v.setWidth 32, draws := n, ph := .r6 })

/-- R150 R.6, R74-R76: the unit goes to the `w` bytes at `OPA_L + w × k`, the low byte lower, and is counted; a misaligned 2-byte unit
faults MISALIGNED, one that is not admitted or passes 2^32 - 1 faults MEM_REFUSED, with nothing stored. -/
def Obligations.ReadStoresUnitOrFaults : Prop :=
  ∀ s : State, s.ph = .r6 → (s.w = 1 ∨ s.w = 2) →
    let a := s.opaL.toNat + s.w.toNat * s.k.toNat
    let low := Memory.write s.mem a (s.t.extractLsb' 0 8)
    exec .read s = .next
      (if s.w = 2 ∧ a % 2 = 1 then { s with fault := s.fault ||| 0x00000002#32, ph := .faulted }
      else if a + s.w.toNat - 1 ≤ 2 ^ 32 - 1 ∧ Config.params.memAdmit a s.w.toNat = true then
        { s with
          mem := if s.w = 2 then Memory.write low (a + 1) (s.t.extractLsb' 8 8) else low
          k := s.k + 1, ph := .r3 }
      else { s with fault := s.fault ||| 0x00000004#32, ph := .faulted })

/-- R150, R152: for every parameter choice, READ with `n = OPB_L` error-free units buffered when its loop begins, the buffer aligned
and admitted, and no other agent's step, finishes OK with XCNT = n: the n units are in the buffer in order, each little-endian in the
`w` bytes at `OPA_L + w × i`, taken from the head of the FIFO, and no byte outside `[OPA_L, OPA_L + w × n)` has moved. -/
def Obligations.ReadFillsBufferFromFifo : Prop :=
  (∀ s, exec .read s = readStep Config.params s) ∧
  ∀ (P : Params) (s : State) (us rest : List RxUnit), s.ph = .r3 → s.k = 0 → s.w = unitSize s.mode →
    Memory.wf s.mem → s.oerr = false → s.rxf = us ++ rest → us.length = s.opbL.toNat →
    (∀ u ∈ s.rxf, u.ferr = false ∧ u.perr = false) →
    (∀ i, i < us.length → memCheck P (s.opaL.toNat + s.w.toNat * i) s.w.toNat = none) →
    ∃ t, runSteps (readStep P) (4 * us.length + 1) s = .next t ∧
      t = { s with
        ph := .idle, res := 0x00000001#32, k := s.opbL, rxf := rest, mem := t.mem, t := t.t, draws := t.draws } ∧
      (∀ i u, us[i]? = some u → bufferUnit t s.w.toNat (s.opaL.toNat + s.w.toNat * i) =
        if s.w = 2 then u.data.setWidth 16 else (u.data.setWidth 16 &&& 0x00FF#16)) ∧
      ∀ a, a < s.opaL.toNat ∨ s.opaL.toNat + s.w.toNat * us.length ≤ a → Memory.read t.mem a = Memory.read s.mem a

/-- R150's frame, at every label: READ changes no configuration, no enable and nothing of the transmit side; memory moves only at R.6,
within the `w` bytes at `OPA_L + w × k`. -/
def Obligations.ReadFrame : Prop :=
  ∀ s t : State, exec .read s = .next t →
    t = { s with
      ph := t.ph, k := t.k, w := t.w, t := t.t, res := t.res, fault := t.fault, oerr := t.oerr, rxf := t.rxf
      mem := t.mem, draws := t.draws } ∧
    (s.ph ≠ .r6 → t.mem = s.mem ∧ t.k = s.k) ∧
    (s.ph ≠ .ec2 → t.oerr = s.oerr) ∧
    (s.ph ≠ .ec2 → s.ph ≠ .ec4 → s.ph ≠ .r5 → t.rxf = s.rxf) ∧
    ∀ a, a < unitAddr s ∨ unitAddr s + s.w.toNat ≤ a → Memory.read t.mem a = Memory.read s.mem a

/-! ## WRITE -/

/-- R155 W.0 to W.3: the null buffer fails with no access; the width sampled once; the count reached finishes OK; a full transmit FIFO
waits. -/
def Obligations.WriteStartsPollsAndFinishes : Prop :=
  ∀ s : State,
    (s.ph = .w0 → exec .write s = .next
      (if s.opaL = 0 then { s with ph := .idle, res := 0x00000042#32 } else { s with ph := .w1 })) ∧
    (s.ph = .w1 → exec .write s = .next { s with
      t := modeImage s, w := if modePdsel s.mode = 0b11#2 then 2 else 1, ph := .w2 }) ∧
    (s.ph = .w2 → exec .write s = .next
      (if s.k = s.opbL then { s with ph := .idle, res := 0x00000001#32 } else { s with ph := .w3 })) ∧
    (s.ph = .w3 → ∃ (ridle : Bool) (n : Nat), exec .write s = .next { s with
      t := staImage Config.params s ridle, draws := n
      ph := if s.txf.length = Config.params.txDepth then .w3 else .w4 })

/-- R155 W.4, R73-R76: the unit at `OPA_L + w × k` is read little-endian; a misaligned or refused access faults with nothing else moved. -/
def Obligations.WriteFetchesUnitOrFaults : Prop :=
  ∀ s : State, s.ph = .w4 → (s.w = 1 ∨ s.w = 2) →
    let a := s.opaL.toNat + s.w.toNat * s.k.toNat
    exec .write s = .next
      (if s.w = 2 ∧ a % 2 = 1 then { s with fault := s.fault ||| 0x00000002#32, ph := .faulted }
      else if a + s.w.toNat - 1 ≤ 2 ^ 32 - 1 ∧ Config.params.memAdmit a s.w.toNat = true then
        { s with
          t := if s.w = 2 then (Memory.read s.mem (a + 1) ++ Memory.read s.mem a : Half).setWidth 32
            else (Memory.read s.mem a).setWidth 32
          ph := .w5 }
      else { s with fault := s.fault ||| 0x00000004#32, ph := .faulted })

/-- R155 W.5, R84: the unit is appended to the transmit FIFO, 9 or 8 bits of it, and counted; with the FIFO full, which
no run reaches, the write faults TX_OVERFLOW unperformed. -/
def Obligations.WriteSendsUnit : Prop :=
  ∀ s : State, s.ph = .w5 → exec .write s = .next
    (if s.txf.length = Config.params.txDepth then { s with fault := s.fault ||| 0x00000010#32, ph := .faulted }
    else { s with
      txf := s.txf ++ [if modePdsel s.mode = 0b11#2 then s.t.extractLsb' 0 9 else (s.t.extractLsb' 0 8).setWidth 9]
      k := s.k + 1, ph := .w2 })

/-- R155, R156: for every parameter choice, WRITE of `n = OPB_L` units with a buffer aligned and admitted, room for n units in the
transmit FIFO and no other agent's step finishes OK with XCNT = n: the units enter the FIFO in buffer order, 9 or 8 bits of each, and
nothing else of the peripheral and no byte of memory moves. -/
def Obligations.WriteSendsWholeBuffer : Prop :=
  (∀ s, exec .write s = writeStep Config.params s) ∧
  ∀ (P : Params) (s : State), s.ph = .w0 → s.k = 0 → s.opaL ≠ 0 →
    s.txf.length + s.opbL.toNat ≤ P.txDepth →
    (∀ i, i < s.opbL.toNat →
      memCheck P (s.opaL.toNat + (unitSize s.mode).toNat * i) (unitSize s.mode).toNat = none) →
    ∃ t, runSteps (writeStep P) (4 * s.opbL.toNat + 3) s = .next t ∧
      t = { s with
        ph := .idle, res := 0x00000001#32, k := s.opbL, w := unitSize s.mode, t := t.t, draws := t.draws
        txf := s.txf ++ (List.range s.opbL.toNat).map fun i => keptUnit s.mode
          ((bufferUnit s (unitSize s.mode).toNat (s.opaL.toNat + (unitSize s.mode).toNat * i)).setWidth 32) }

/-- R155's frame, at every label: WRITE changes no byte of memory, no configuration, no enable, nothing of the receive side; the
transmit FIFO moves only at W.5. -/
def Obligations.WriteFrame : Prop :=
  ∀ s t : State, exec .write s = .next t →
    t = { s with
      ph := t.ph, k := t.k, w := t.w, t := t.t, res := t.res, fault := t.fault, txf := t.txf, draws := t.draws } ∧
    (s.ph ≠ .w5 → t.txf = s.txf ∧ t.k = s.k)

/-! ## Single-unit commands and predicates -/

/-- R170: WB.1 waits while the transmit FIFO is full; WB.2 appends the unit, 9 or 8 bits of OPA_L, and finishes OK; with
the FIFO full at WB.2, which no state of the invariant has, the write faults TX_OVERFLOW unperformed (R84). -/
def Obligations.WriteByteWaitsThenSends : Prop :=
  ∀ s : State,
    (s.ph = .wb1 → ∃ (ridle : Bool) (n : Nat), exec .writeByte s = .next { s with
      t := staImage Config.params s ridle, draws := n
      ph := if s.txf.length = Config.params.txDepth then .wb1 else .wb2 }) ∧
    (s.ph = .wb2 → exec .writeByte s = .next
      (if s.txf.length = Config.params.txDepth then { s with fault := s.fault ||| 0x00000010#32, ph := .faulted }
      else { s with
        ph := .idle, res := 0x00000001#32
        txf := s.txf ++ [if modePdsel s.mode = 0b11#2 then s.opaL.extractLsb' 0 9
          else (s.opaL.extractLsb' 0 8).setWidth 9] })) ∧
    (Inv s → s.ph = .wb2 → s.txf.length ≠ Config.params.txDepth)

/-- R172: READ_BYTE pops the head unit, errors and all, and returns it zero-extended; of an empty FIFO it removes nothing and returns 9
drawn bits. -/
def Obligations.ReadByteReturnsHeadUnchecked : Prop :=
  ∀ s : State, s.ph = .rb1 →
    (∀ u rest, s.rxf = u :: rest → exec .readByte s = .next { s with
      ph := .idle, t := u.data.setWidth 32, rxf := rest, res := resWord .ok .none (u.data.setWidth 16) }) ∧
    (s.rxf = [] → ∃ (v : Unit9) (n : Nat), exec .readByte s = .next { s with
      ph := .idle, t := v.setWidth 32, res := resWord .ok .none (v.setWidth 16), draws := n })

/-- R174, R177: TX_READY answers 1 when UTXBF = 0 and 0 when it is 1, and moves nothing of the peripheral or memory. -/
def Obligations.TxReadyReportsRoom : Prop :=
  ∀ s : State, s.ph = .p1 → ∃ (ridle : Bool) (n : Nat), exec .txReady s = .next { s with
    ph := .idle, t := staImage Config.params s ridle, draws := n
    res := if s.txf.length = Config.params.txDepth then 0x00000001#32 else 0x00010001#32 }

/-- R175, R177: RX_READY answers 1 when the receive FIFO holds a unit, whatever its error flags, and moves nothing of the peripheral. -/
def Obligations.RxReadyReportsData : Prop :=
  ∀ s : State, s.ph = .p1 → ∃ (ridle : Bool) (n : Nat), exec .rxReady s = .next { s with
    ph := .idle, t := staImage Config.params s ridle, draws := n
    res := if s.rxf = [] then 0x00000001#32 else 0x00010001#32 }

/-- R176, R177: TX_COMPLETE answers 1 when the transmit FIFO is empty and TSR idle, and moves nothing of the peripheral. -/
def Obligations.TxCompleteReportsIdleTransmitter : Prop :=
  ∀ s : State, s.ph = .p1 → ∃ (ridle : Bool) (n : Nat), exec .txComplete s = .next { s with
    ph := .idle, t := staImage Config.params s ridle, draws := n
    res := if s.txf = [] ∧ s.tsr = none then 0x00010001#32 else 0x00000001#32 }

/-! ## Autobaud -/

/-- R180: AUTOBAUD_QUERY answers MODE.ABAUD and moves nothing. -/
def Obligations.AutobaudQueryReportsBit : Prop :=
  ∀ s : State, s.ph = .aq1 → exec .autobaudQuery s = .next { s with
    ph := .idle, t := modeImage s, res := if modeAbaud s.mode = true then 0x00010001#32 else 0x00000001#32 }

/-- R181: AUTOBAUD_SET 1 sets MODE bit 5 and no other bit; AUTOBAUD_SET 0 performs no access; both finish OK, whatever the mode. -/
def Obligations.AutobaudSetOnlySets : Prop :=
  ∀ s : State, s.ph = .as1 →
    exec (.autobaudSet true) s = .next { s with ph := .idle, res := 0x00000001#32, mode := s.mode ||| 0x0020#16 } ∧
    exec (.autobaudSet false) s = .next { s with ph := .idle, res := 0x00000001#32 }
end

