-- ==== Sys2Proof/Laws/Decode.lean ====
section
/-! SUPPORT. What each format's decoder accepts (30_encoding.md rules R102-R109) and how a command word is the
concatenation of its fields, so that no later proof unfolds the opcode map more than once. -/

namespace Sys2Proof

theorem decodePlain_eq_command (W : Word) (i j : Instr) :
    decodePlain W i = .command j ↔ W.extractLsb' 8 24 = 0#24 ∧ i = j := by
  unfold decodePlain; split <;> simp_all

theorem decodeSet_eq_command (W : Word) (j : Instr) :
    decodeSet W = .command j ↔ W.extractLsb' 9 23 = 0#23 ∧ .autobaudSet (W.getLsbD 8) = j := by
  unfold decodeSet; split <;> simp_all

theorem decodeSetup_eq_command (W : Word) (j : Instr) :
    decodeSetup W = .command j ↔ W.extractLsb' 13 19 = 0#19 ∧
      ¬(W.getLsbD 8 = true ∧ W.extractLsb' 10 2 = 0b11#2) ∧
      .serialSetup (W.getLsbD 8) (W.getLsbD 9) (W.extractLsb' 10 2) (W.getLsbD 12) = j := by
  unfold decodeSetup
  by_cases h1 : W.extractLsb' 13 19 = 0#19
  · by_cases h2 : W.getLsbD 8 = true ∧ W.extractLsb' 10 2 = 0b11#2
    · simp only [if_pos h1, if_pos h2]; exact ⟨nofun, fun h => absurd h2 h.2.1⟩
    · simp only [if_pos h1, if_neg h2, Decoded.command.injEq]; exact ⟨fun h => ⟨h1, h2, h⟩, fun h => h.2.2⟩
  · simp only [if_neg h1]; exact ⟨nofun, fun h => absurd h.1 h1⟩

/-- A legal word has Z = 0 and is read by its opcode's format. -/
theorem decode_eq_command (W : Word) (j : Instr) :
    decode W = .command j ↔ W.extractLsb' 4 4 = 0#4 ∧ decodeOpcode (W.extractLsb' 0 4) W = .command j := by
  unfold decode; split <;> simp_all

/-- A legal word's opcode is SERIAL_SETUP's, AUTOBAUD_SET's, or that of a command of format N, B or D. -/
theorem decodeOpcode_cases (opc : BitVec 4) (W : Word) (j : Instr) (h : decodeOpcode opc W = .command j) :
    (opc = 0x1#4 ∧ decodeSetup W = .command j) ∨ (opc = 0xB#4 ∧ decodeSet W = .command j) ∨
      ∃ i, encode i = plainWord opc ∧ i.wellFormed = true ∧ decodePlain W i = .command j := by
  unfold decodeOpcode at h
  by_cases h0 : opc = 0x0#4
  · rw [if_pos h0] at h; subst h0; exact .inr (.inr ⟨_, rfl, rfl, h⟩)
  rw [if_neg h0] at h
  by_cases h1 : opc = 0x1#4
  · rw [if_pos h1] at h; subst h1; exact .inl ⟨rfl, h⟩
  rw [if_neg h1] at h
  by_cases h2 : opc = 0x2#4
  · rw [if_pos h2] at h; subst h2; exact .inr (.inr ⟨_, rfl, rfl, h⟩)
  rw [if_neg h2] at h
  by_cases h3 : opc = 0x3#4
  · rw [if_pos h3] at h; subst h3; exact .inr (.inr ⟨_, rfl, rfl, h⟩)
  rw [if_neg h3] at h
  by_cases h4 : opc = 0x4#4
  · rw [if_pos h4] at h; subst h4; exact .inr (.inr ⟨_, rfl, rfl, h⟩)
  rw [if_neg h4] at h
  by_cases h5 : opc = 0x5#4
  · rw [if_pos h5] at h; subst h5; exact .inr (.inr ⟨_, rfl, rfl, h⟩)
  rw [if_neg h5] at h
  by_cases h6 : opc = 0x6#4
  · rw [if_pos h6] at h; subst h6; exact .inr (.inr ⟨_, rfl, rfl, h⟩)
  rw [if_neg h6] at h
  by_cases h7 : opc = 0x7#4
  · rw [if_pos h7] at h; subst h7; exact .inr (.inr ⟨_, rfl, rfl, h⟩)
  rw [if_neg h7] at h
  by_cases h8 : opc = 0x8#4
  · rw [if_pos h8] at h; subst h8; exact .inr (.inr ⟨_, rfl, rfl, h⟩)
  rw [if_neg h8] at h
  by_cases h9 : opc = 0x9#4
  · rw [if_pos h9] at h; subst h9; exact .inr (.inr ⟨_, rfl, rfl, h⟩)
  rw [if_neg h9] at h
  by_cases h10 : opc = 0xA#4
  · rw [if_pos h10] at h; subst h10; exact .inr (.inr ⟨_, rfl, rfl, h⟩)
  rw [if_neg h10] at h
  by_cases h11 : opc = 0xB#4
  · rw [if_pos h11] at h; subst h11; exact .inr (.inl ⟨rfl, h⟩)
  rw [if_neg h11] at h
  cases h

/-- A word as its bits 31:8, its Z field and its opcode. -/
theorem word_fields (W : Word) :
    W = (W.extractLsb' 8 24 ++ W.extractLsb' 4 4 ++ W.extractLsb' 0 4 : BitVec (24 + 4 + 4)) := by
  apply BitVec.eq_of_getLsbD_eq
  intro i hi
  simp only [BitVec.getLsbD_append, BitVec.getLsbD_extractLsb']
  interval_cases i <;> simp

/-- A word as the fields of format S. -/
theorem word_fields_setup (W : Word) :
    W = (W.extractLsb' 13 19 ++ BitVec.ofBool (W.getLsbD 12) ++ W.extractLsb' 10 2 ++
      BitVec.ofBool (W.getLsbD 9) ++ BitVec.ofBool (W.getLsbD 8) ++ W.extractLsb' 4 4 ++
      W.extractLsb' 0 4 : BitVec (19 + 1 + 2 + 1 + 1 + 4 + 4)) := by
  apply BitVec.eq_of_getLsbD_eq
  intro i hi
  simp only [BitVec.getLsbD_append, BitVec.getLsbD_extractLsb', BitVec.getLsbD_ofBool]
  interval_cases i <;> simp

/-- A word as the fields of format E. -/
theorem word_fields_set (W : Word) :
    W = (W.extractLsb' 9 23 ++ BitVec.ofBool (W.getLsbD 8) ++ W.extractLsb' 4 4 ++ W.extractLsb' 0 4 :
      BitVec (23 + 1 + 4 + 4)) := by
  apply BitVec.eq_of_getLsbD_eq
  intro i hi
  simp only [BitVec.getLsbD_append, BitVec.getLsbD_extractLsb', BitVec.getLsbD_ofBool]
  interval_cases i <;> simp

end Sys2Proof
end

