-- ==== Sys2Proof/Laws/Flags.lean ====
section
/-! SUPPORT. The bits of STA's image (20_memory.md rule R80) and what the masks of 10_state.md rule R47 read
from it, so that no later proof takes the image apart. -/

namespace Sys2Proof.Machine

section
variable (P : Params) (s : State) (r : Bool)

/-- The one lemma that takes STA's image apart, a bit at a time. -/
theorem staImage_getLsbD (i : Nat) : (staImage P s r).getLsbD i =
    (if i = 0 then urxda s else if i = 1 then s.oerr else if i = 2 then ferr P s
      else if i = 3 then perr P s else if i = 4 then r
      else if i < 8 then s.staLo.getLsbD (i - 5)
      else if i = 8 then trmt s else if i = 9 then utxbf P s
      else if i = 10 then s.utxen else if i = 11 then s.utxbrk else if i = 12 then s.urxen
      else if i < 25 then s.staHi.getLsbD (i - 13) else false) := by
  by_cases h : i < 32
  · unfold staImage
    change BitVec.getLsbD (w := 7 + 12 + 1 + 1 + 1 + 1 + 1 + 3 + 1 + 1 + 1 + 1 + 1) _ _ = _
    simp only [BitVec.getLsbD_append, BitVec.getLsbD_ofBool]
    interval_cases i <;> simp
  · rw [BitVec.getLsbD_of_ge _ _ (by omega)]
    simp only [show ¬ i = 0 by omega, show ¬ i = 1 by omega, show ¬ i = 2 by omega, show ¬ i = 3 by omega,
      show ¬ i = 4 by omega, show ¬ i < 8 by omega, show ¬ i = 8 by omega, show ¬ i = 9 by omega,
      show ¬ i = 10 by omega, show ¬ i = 11 by omega, show ¬ i = 12 by omega, show ¬ i < 25 by omega, if_false]

@[simp] theorem staImage_urxda : (staImage P s r)[0] = urxda s := by
  rw [← BitVec.getLsbD_eq_getElem, staImage_getLsbD]; rfl
@[simp] theorem staImage_oerr : (staImage P s r)[1] = s.oerr := by
  rw [← BitVec.getLsbD_eq_getElem, staImage_getLsbD]; rfl
@[simp] theorem staImage_ferr : (staImage P s r)[2] = ferr P s := by
  rw [← BitVec.getLsbD_eq_getElem, staImage_getLsbD]; rfl
@[simp] theorem staImage_perr : (staImage P s r)[3] = perr P s := by
  rw [← BitVec.getLsbD_eq_getElem, staImage_getLsbD]; rfl
@[simp] theorem staImage_trmt : (staImage P s r)[8] = trmt s := by
  rw [← BitVec.getLsbD_eq_getElem, staImage_getLsbD]; rfl
@[simp] theorem staImage_utxbf : (staImage P s r)[9] = utxbf P s := by
  rw [← BitVec.getLsbD_eq_getElem, staImage_getLsbD]; rfl
@[simp] theorem staImage_utxen : (staImage P s r)[10] = s.utxen := by
  rw [← BitVec.getLsbD_eq_getElem, staImage_getLsbD]; rfl
@[simp] theorem staImage_utxbrk : (staImage P s r)[11] = s.utxbrk := by
  rw [← BitVec.getLsbD_eq_getElem, staImage_getLsbD]; rfl
@[simp] theorem staImage_urxen : (staImage P s r)[12] = s.urxen := by
  rw [← BitVec.getLsbD_eq_getElem, staImage_getLsbD]; rfl

end

/-- The error bitset as ERROR_GET reports it: bit 1 overrun, 2 framing, 3 parity (R140, D10). -/
def errBits (oe fe pe : Bool) : Word := 0#28 ++ BitVec.ofBool pe ++ BitVec.ofBool fe ++ BitVec.ofBool oe ++ 0#1

theorem staImage_and_sErr (P : Params) (s : State) (r : Bool) :
    staImage P s r &&& sErr = errBits s.oerr (ferr P s) (perr P s) := by
  apply BitVec.eq_of_getLsbD_eq
  intro i hi
  rw [BitVec.getLsbD_and, staImage_getLsbD]
  unfold errBits sErr
  change _ = BitVec.getLsbD (w := 28 + 1 + 1 + 1 + 1) _ _
  simp only [BitVec.getLsbD_append, BitVec.getLsbD_ofBool]
  interval_cases i <;> simp

@[simp] theorem errBits_eq_zero (oe fe pe : Bool) :
    errBits oe fe pe = 0 ↔ oe = false ∧ fe = false ∧ pe = false := by
  revert oe fe pe; decide

/-- The snapshot SERIAL_SETUP takes: UTXEN, UTXBRK and URXEN at their places (R122 S.4). -/
def keepBits (tx brk rx : Bool) : Word :=
  0#19 ++ BitVec.ofBool rx ++ BitVec.ofBool brk ++ BitVec.ofBool tx ++ 0#10

theorem staImage_and_sKeep (P : Params) (s : State) (r : Bool) :
    staImage P s r &&& sKeep = keepBits s.utxen s.utxbrk s.urxen := by
  apply BitVec.eq_of_getLsbD_eq
  intro i hi
  rw [BitVec.getLsbD_and, staImage_getLsbD]
  unfold keepBits sKeep
  change _ = BitVec.getLsbD (w := 19 + 1 + 1 + 1 + 10) _ _
  simp only [BitVec.getLsbD_append, BitVec.getLsbD_ofBool]
  interval_cases i <;> simp

@[simp] theorem keepBits_getLsbD_10 (tx brk rx : Bool) : (keepBits tx brk rx)[10] = tx := by
  revert tx brk rx; decide
@[simp] theorem keepBits_getLsbD_11 (tx brk rx : Bool) : (keepBits tx brk rx)[11] = brk := by
  revert tx brk rx; decide
@[simp] theorem keepBits_getLsbD_12 (tx brk rx : Bool) : (keepBits tx brk rx)[12] = rx := by
  revert tx brk rx; decide

end Sys2Proof.Machine
end

