-- ==== Sys2Proof/Laws/Memory.lean ====
section
/-! SUPPORT. Buffer memory: a read after a write, and that the canonical form is kept (20_memory.md rules R73,
R74). -/

namespace Sys2Proof.Machine

/-- A write leaves every other byte alone, whatever the list's form. -/
@[simp] theorem Memory.read_write_other (m : List Host.Cell) {a c : Nat} (v : Byte) (h : c ≠ a) :
    Memory.read (Memory.write m a v) c = Memory.read m c := by
  induction m with
  | nil =>
    unfold Memory.write
    split
    · rfl
    · simp [Memory.read, Ne.symm h]
  | cons x rest ih =>
    obtain ⟨b, y⟩ := x
    unfold Memory.write
    split_ifs with h1 h2 h3 h4
    · rfl
    · simp [Memory.read, Ne.symm h]
    · subst h3; simp [Memory.read, Ne.symm h]
    · subst h3; simp [Memory.read, Ne.symm h]
    · simp only [Memory.read, ih]

/-- An address below every listed one reads as an unlisted byte. -/
theorem Memory.read_of_lt (m : List Host.Cell) (a : Nat) (h : ∀ c ∈ m, a < c.1) :
    Memory.read m a = Memory.unlisted := by
  induction m with
  | nil => rfl
  | cons x rest ih =>
    have hx := h x (by simp)
    rw [Memory.read, if_neg (by omega), ih fun c hc => h c (by simp [hc])]

/-- The byte written is the byte read, in memory of the canonical form. -/
theorem Memory.read_write_same (m : List Host.Cell) (a : Nat) (v : Byte)
    (h : m.Pairwise fun x y => x.1 < y.1) : Memory.read (Memory.write m a v) a = v := by
  induction m with
  | nil => unfold Memory.write; split <;> simp_all [Memory.read]
  | cons x rest ih =>
    obtain ⟨b, y⟩ := x
    obtain ⟨hb, hrest⟩ := List.pairwise_cons.1 h
    unfold Memory.write
    split_ifs with h1 h2 h3 h4
    · rw [Memory.read_of_lt _ _ (fun c hc => ?_), h2]
      rcases List.mem_cons.1 hc with rfl | hc
      · exact h1
      · exact lt_trans h1 (hb c hc)
    · simp [Memory.read]
    · rw [Memory.read_of_lt _ _ (fun c hc => h3 ▸ hb c hc), h4]
    · simp [Memory.read]
    · rw [Memory.read, if_neg (Ne.symm h3), ih hrest]

/-- A write lists no address but its own and the ones listed before. -/
theorem Memory.mem_write (m : List Host.Cell) (a : Nat) (v : Byte) (c : Host.Cell)
    (h : c ∈ Memory.write m a v) : c ∈ m ∨ (c = (a, v) ∧ v ≠ Memory.unlisted) := by
  induction m with
  | nil => unfold Memory.write at h; split at h <;> simp_all
  | cons x rest ih =>
    obtain ⟨b, y⟩ := x
    unfold Memory.write at h
    split_ifs at h with h1 h2 h3 h4 <;> simp_all <;> tauto

/-- Every write keeps the canonical form. -/
theorem Memory.write_wf (m : List Host.Cell) (a : Nat) (v : Byte) (ha : a < 2 ^ 32) (h : Memory.wf m) :
    Memory.wf (Memory.write m a v) := by
  refine ⟨?_, fun c hc => ?_⟩
  · obtain ⟨hs, -⟩ := h
    induction m with
    | nil => unfold Memory.write; split <;> simp
    | cons x rest ih =>
      obtain ⟨b, y⟩ := x
      obtain ⟨hb, hrest⟩ := List.pairwise_cons.1 hs
      unfold Memory.write
      split_ifs with h1 h2 h3 h4
      · exact hs
      · refine List.pairwise_cons.2 ⟨fun c hc => ?_, hs⟩
        rcases List.mem_cons.1 hc with rfl | hc
        · exact h1
        · exact lt_trans h1 (hb c hc)
      · exact hrest
      · exact List.pairwise_cons.2 ⟨fun c hc => h3 ▸ hb c hc, hrest⟩
      · refine List.pairwise_cons.2 ⟨fun c hc => ?_, ih hrest⟩
        rcases Memory.mem_write _ _ _ _ hc with hc | ⟨rfl, -⟩
        · exact hb c hc
        · simp only at *; omega
  · rcases Memory.mem_write _ _ _ _ hc with hc | ⟨rfl, hv⟩
    · exact h.2 c hc
    · exact ⟨ha, hv⟩

/-- Memory after reset, and any memory a reset keeps, is in the canonical form. -/
theorem Memory.wf_reset : Memory.wf State.reset.mem := by decide

end Sys2Proof.Machine
end

