-- ==== Sys2Proof/Laws/State.lean ====
section
/-! SUPPORT. One lemma per field and update (`finish`, `raise`, `drawn`, `resetSignal`), each true by rfl, so that no
later proof unfolds one of these record updates. -/

namespace Sys2Proof.Machine

section
variable (status : Status) (reason : Reason) (value : Half) (kind : FaultKind) (s : State)

/-! ## finish -/

@[simp] theorem finish_ph : (finish status reason value s).ph = .idle := rfl
@[simp] theorem finish_cmdL : (finish status reason value s).cmdL = s.cmdL := rfl
@[simp] theorem finish_opaL : (finish status reason value s).opaL = s.opaL := rfl
@[simp] theorem finish_opbL : (finish status reason value s).opbL = s.opbL := rfl
@[simp] theorem finish_k : (finish status reason value s).k = s.k := rfl
@[simp] theorem finish_w : (finish status reason value s).w = s.w := rfl
@[simp] theorem finish_snap : (finish status reason value s).snap = s.snap := rfl
@[simp] theorem finish_e : (finish status reason value s).e = s.e := rfl
@[simp] theorem finish_clk : (finish status reason value s).clk = s.clk := rfl
@[simp] theorem finish_d : (finish status reason value s).d = s.d := rfl
@[simp] theorem finish_t : (finish status reason value s).t = s.t := rfl
@[simp] theorem finish_cmd : (finish status reason value s).cmd = s.cmd := rfl
@[simp] theorem finish_opa : (finish status reason value s).opa = s.opa := rfl
@[simp] theorem finish_opb : (finish status reason value s).opb = s.opb := rfl
@[simp] theorem finish_res : (finish status reason value s).res = resWord status reason value := rfl
@[simp] theorem finish_fault : (finish status reason value s).fault = s.fault := rfl
@[simp] theorem finish_mode : (finish status reason value s).mode = s.mode := rfl
@[simp] theorem finish_oerr : (finish status reason value s).oerr = s.oerr := rfl
@[simp] theorem finish_utxen : (finish status reason value s).utxen = s.utxen := rfl
@[simp] theorem finish_utxbrk : (finish status reason value s).utxbrk = s.utxbrk := rfl
@[simp] theorem finish_urxen : (finish status reason value s).urxen = s.urxen := rfl
@[simp] theorem finish_staLo : (finish status reason value s).staLo = s.staLo := rfl
@[simp] theorem finish_staHi : (finish status reason value s).staHi = s.staHi := rfl
@[simp] theorem finish_brg : (finish status reason value s).brg = s.brg := rfl
@[simp] theorem finish_rxf : (finish status reason value s).rxf = s.rxf := rfl
@[simp] theorem finish_txf : (finish status reason value s).txf = s.txf := rfl
@[simp] theorem finish_tsr : (finish status reason value s).tsr = s.tsr := rfl
@[simp] theorem finish_lineOut : (finish status reason value s).lineOut = s.lineOut := rfl
@[simp] theorem finish_mem : (finish status reason value s).mem = s.mem := rfl
@[simp] theorem finish_turns : (finish status reason value s).turns = s.turns := rfl
@[simp] theorem finish_draws : (finish status reason value s).draws = s.draws := rfl

/-! ## raise -/

@[simp] theorem raise_ph : (raise kind s).ph = .faulted := rfl
@[simp] theorem raise_cmdL : (raise kind s).cmdL = s.cmdL := rfl
@[simp] theorem raise_opaL : (raise kind s).opaL = s.opaL := rfl
@[simp] theorem raise_opbL : (raise kind s).opbL = s.opbL := rfl
@[simp] theorem raise_k : (raise kind s).k = s.k := rfl
@[simp] theorem raise_w : (raise kind s).w = s.w := rfl
@[simp] theorem raise_snap : (raise kind s).snap = s.snap := rfl
@[simp] theorem raise_e : (raise kind s).e = s.e := rfl
@[simp] theorem raise_clk : (raise kind s).clk = s.clk := rfl
@[simp] theorem raise_d : (raise kind s).d = s.d := rfl
@[simp] theorem raise_t : (raise kind s).t = s.t := rfl
@[simp] theorem raise_cmd : (raise kind s).cmd = s.cmd := rfl
@[simp] theorem raise_opa : (raise kind s).opa = s.opa := rfl
@[simp] theorem raise_opb : (raise kind s).opb = s.opb := rfl
@[simp] theorem raise_res : (raise kind s).res = s.res := rfl
@[simp] theorem raise_fault : (raise kind s).fault = s.fault ||| kind.mask := rfl
@[simp] theorem raise_mode : (raise kind s).mode = s.mode := rfl
@[simp] theorem raise_oerr : (raise kind s).oerr = s.oerr := rfl
@[simp] theorem raise_utxen : (raise kind s).utxen = s.utxen := rfl
@[simp] theorem raise_utxbrk : (raise kind s).utxbrk = s.utxbrk := rfl
@[simp] theorem raise_urxen : (raise kind s).urxen = s.urxen := rfl
@[simp] theorem raise_staLo : (raise kind s).staLo = s.staLo := rfl
@[simp] theorem raise_staHi : (raise kind s).staHi = s.staHi := rfl
@[simp] theorem raise_brg : (raise kind s).brg = s.brg := rfl
@[simp] theorem raise_rxf : (raise kind s).rxf = s.rxf := rfl
@[simp] theorem raise_txf : (raise kind s).txf = s.txf := rfl
@[simp] theorem raise_tsr : (raise kind s).tsr = s.tsr := rfl
@[simp] theorem raise_lineOut : (raise kind s).lineOut = s.lineOut := rfl
@[simp] theorem raise_mem : (raise kind s).mem = s.mem := rfl
@[simp] theorem raise_turns : (raise kind s).turns = s.turns := rfl
@[simp] theorem raise_draws : (raise kind s).draws = s.draws := rfl

/-! ## drawn -/

@[simp] theorem drawn_ph : (drawn s).ph = s.ph := rfl
@[simp] theorem drawn_cmdL : (drawn s).cmdL = s.cmdL := rfl
@[simp] theorem drawn_opaL : (drawn s).opaL = s.opaL := rfl
@[simp] theorem drawn_opbL : (drawn s).opbL = s.opbL := rfl
@[simp] theorem drawn_k : (drawn s).k = s.k := rfl
@[simp] theorem drawn_w : (drawn s).w = s.w := rfl
@[simp] theorem drawn_snap : (drawn s).snap = s.snap := rfl
@[simp] theorem drawn_e : (drawn s).e = s.e := rfl
@[simp] theorem drawn_clk : (drawn s).clk = s.clk := rfl
@[simp] theorem drawn_d : (drawn s).d = s.d := rfl
@[simp] theorem drawn_t : (drawn s).t = s.t := rfl
@[simp] theorem drawn_cmd : (drawn s).cmd = s.cmd := rfl
@[simp] theorem drawn_opa : (drawn s).opa = s.opa := rfl
@[simp] theorem drawn_opb : (drawn s).opb = s.opb := rfl
@[simp] theorem drawn_res : (drawn s).res = s.res := rfl
@[simp] theorem drawn_fault : (drawn s).fault = s.fault := rfl
@[simp] theorem drawn_mode : (drawn s).mode = s.mode := rfl
@[simp] theorem drawn_oerr : (drawn s).oerr = s.oerr := rfl
@[simp] theorem drawn_utxen : (drawn s).utxen = s.utxen := rfl
@[simp] theorem drawn_utxbrk : (drawn s).utxbrk = s.utxbrk := rfl
@[simp] theorem drawn_urxen : (drawn s).urxen = s.urxen := rfl
@[simp] theorem drawn_staLo : (drawn s).staLo = s.staLo := rfl
@[simp] theorem drawn_staHi : (drawn s).staHi = s.staHi := rfl
@[simp] theorem drawn_brg : (drawn s).brg = s.brg := rfl
@[simp] theorem drawn_rxf : (drawn s).rxf = s.rxf := rfl
@[simp] theorem drawn_txf : (drawn s).txf = s.txf := rfl
@[simp] theorem drawn_tsr : (drawn s).tsr = s.tsr := rfl
@[simp] theorem drawn_lineOut : (drawn s).lineOut = s.lineOut := rfl
@[simp] theorem drawn_mem : (drawn s).mem = s.mem := rfl
@[simp] theorem drawn_turns : (drawn s).turns = s.turns := rfl
@[simp] theorem drawn_draws : (drawn s).draws = s.draws + 1 := rfl

/-! ## resetSignal -/

@[simp] theorem resetSignal_ph : (resetSignal s).ph = .idle := rfl
@[simp] theorem resetSignal_cmdL : (resetSignal s).cmdL = 0 := rfl
@[simp] theorem resetSignal_opaL : (resetSignal s).opaL = 0 := rfl
@[simp] theorem resetSignal_opbL : (resetSignal s).opbL = 0 := rfl
@[simp] theorem resetSignal_k : (resetSignal s).k = 0 := rfl
@[simp] theorem resetSignal_w : (resetSignal s).w = 0 := rfl
@[simp] theorem resetSignal_snap : (resetSignal s).snap = 0 := rfl
@[simp] theorem resetSignal_e : (resetSignal s).e = 0 := rfl
@[simp] theorem resetSignal_clk : (resetSignal s).clk = 0 := rfl
@[simp] theorem resetSignal_d : (resetSignal s).d = 0 := rfl
@[simp] theorem resetSignal_t : (resetSignal s).t = 0 := rfl
@[simp] theorem resetSignal_cmd : (resetSignal s).cmd = 0 := rfl
@[simp] theorem resetSignal_opa : (resetSignal s).opa = 0 := rfl
@[simp] theorem resetSignal_opb : (resetSignal s).opb = 0 := rfl
@[simp] theorem resetSignal_res : (resetSignal s).res = 0 := rfl
@[simp] theorem resetSignal_fault : (resetSignal s).fault = 0 := rfl
@[simp] theorem resetSignal_mode : (resetSignal s).mode = 0 := rfl
@[simp] theorem resetSignal_oerr : (resetSignal s).oerr = false := rfl
@[simp] theorem resetSignal_utxen : (resetSignal s).utxen = false := rfl
@[simp] theorem resetSignal_utxbrk : (resetSignal s).utxbrk = false := rfl
@[simp] theorem resetSignal_urxen : (resetSignal s).urxen = false := rfl
@[simp] theorem resetSignal_staLo : (resetSignal s).staLo = 0 := rfl
@[simp] theorem resetSignal_staHi : (resetSignal s).staHi = 0 := rfl
@[simp] theorem resetSignal_brg : (resetSignal s).brg = 0 := rfl
@[simp] theorem resetSignal_rxf : (resetSignal s).rxf = [] := rfl
@[simp] theorem resetSignal_txf : (resetSignal s).txf = [] := rfl
@[simp] theorem resetSignal_tsr : (resetSignal s).tsr = none := rfl
@[simp] theorem resetSignal_lineOut : (resetSignal s).lineOut = s.lineOut := rfl
@[simp] theorem resetSignal_mem : (resetSignal s).mem = s.mem := rfl
@[simp] theorem resetSignal_turns : (resetSignal s).turns = s.turns := rfl
@[simp] theorem resetSignal_draws : (resetSignal s).draws = s.draws := rfl

end

end Sys2Proof.Machine
end

