-- ==== Sys2Proof/Laws/Ops.lean ====
section
/-! SUPPORT. What each shared operation can do, said once: the register bus (20_memory.md rules R80-R86), the
buffer accesses (R73-R76), `afterAccess`. Later proofs cite these instead of unfolding an operation. -/

namespace Sys2Proof.Machine

section
variable (P : Params) (s : State)

/-! ## The access pattern -/

@[simp] theorem afterAccess_ok {α : Type} (a : α) (go : α → State) : afterAccess s (.ok a) go = go a := rfl

@[simp] theorem afterAccess_error {α : Type} (kind : FaultKind) (go : α → State) :
    afterAccess s (.error kind) go = raise kind s := rfl

@[simp] theorem afterRead_mk (v : Word) (go : Word → State → State) : afterRead (v, s) go = go v s := rfl

/-! ## Reads (R80) -/

@[simp] theorem regRead_mode : regRead P .mode s = (modeImage s, s) := rfl
@[simp] theorem regRead_sta : regRead P .sta s = (staImage P s (P.drawRidle s.draws), drawn s) := rfl
@[simp] theorem regRead_brg : regRead P .brg s = (brgImage s, s) := rfl
@[simp] theorem regRead_txreg : regRead P .txreg s = (0, s) := rfl
@[simp] theorem regRead_rxreg : regRead P .rxreg s = ((rxData P s).setWidth 32, rxPop s) := rfl

theorem rxData_cons (u : RxUnit) (rest : List RxUnit) (h : s.rxf = u :: rest) : rxData P s = u.data := by
  unfold rxData; rw [h]

theorem rxData_nil (h : s.rxf = []) : rxData P s = P.drawUnit s.draws := by
  unfold rxData; rw [h]

theorem rxPop_cons (u : RxUnit) (rest : List RxUnit) (h : s.rxf = u :: rest) :
    rxPop s = { s with rxf := rest } := by
  unfold rxPop; rw [h]

theorem rxPop_nil (h : s.rxf = []) : rxPop s = drawn s := by
  unfold rxPop; rw [h]

@[simp] theorem rxPop_rxf : (rxPop s).rxf = s.rxf.tail := by
  unfold rxPop; split <;> simp_all

/-! ## What rxPop leaves unchanged -/

@[simp] theorem rxPop_ph : (rxPop s).ph = s.ph := by
  unfold rxPop; split <;> rfl
@[simp] theorem rxPop_cmdL : (rxPop s).cmdL = s.cmdL := by
  unfold rxPop; split <;> rfl
@[simp] theorem rxPop_opaL : (rxPop s).opaL = s.opaL := by
  unfold rxPop; split <;> rfl
@[simp] theorem rxPop_opbL : (rxPop s).opbL = s.opbL := by
  unfold rxPop; split <;> rfl
@[simp] theorem rxPop_k : (rxPop s).k = s.k := by
  unfold rxPop; split <;> rfl
@[simp] theorem rxPop_w : (rxPop s).w = s.w := by
  unfold rxPop; split <;> rfl
@[simp] theorem rxPop_snap : (rxPop s).snap = s.snap := by
  unfold rxPop; split <;> rfl
@[simp] theorem rxPop_e : (rxPop s).e = s.e := by
  unfold rxPop; split <;> rfl
@[simp] theorem rxPop_clk : (rxPop s).clk = s.clk := by
  unfold rxPop; split <;> rfl
@[simp] theorem rxPop_d : (rxPop s).d = s.d := by
  unfold rxPop; split <;> rfl
@[simp] theorem rxPop_t : (rxPop s).t = s.t := by
  unfold rxPop; split <;> rfl
@[simp] theorem rxPop_cmd : (rxPop s).cmd = s.cmd := by
  unfold rxPop; split <;> rfl
@[simp] theorem rxPop_opa : (rxPop s).opa = s.opa := by
  unfold rxPop; split <;> rfl
@[simp] theorem rxPop_opb : (rxPop s).opb = s.opb := by
  unfold rxPop; split <;> rfl
@[simp] theorem rxPop_res : (rxPop s).res = s.res := by
  unfold rxPop; split <;> rfl
@[simp] theorem rxPop_fault : (rxPop s).fault = s.fault := by
  unfold rxPop; split <;> rfl
@[simp] theorem rxPop_mode : (rxPop s).mode = s.mode := by
  unfold rxPop; split <;> rfl
@[simp] theorem rxPop_oerr : (rxPop s).oerr = s.oerr := by
  unfold rxPop; split <;> rfl
@[simp] theorem rxPop_utxen : (rxPop s).utxen = s.utxen := by
  unfold rxPop; split <;> rfl
@[simp] theorem rxPop_utxbrk : (rxPop s).utxbrk = s.utxbrk := by
  unfold rxPop; split <;> rfl
@[simp] theorem rxPop_urxen : (rxPop s).urxen = s.urxen := by
  unfold rxPop; split <;> rfl
@[simp] theorem rxPop_staLo : (rxPop s).staLo = s.staLo := by
  unfold rxPop; split <;> rfl
@[simp] theorem rxPop_staHi : (rxPop s).staHi = s.staHi := by
  unfold rxPop; split <;> rfl
@[simp] theorem rxPop_brg : (rxPop s).brg = s.brg := by
  unfold rxPop; split <;> rfl
@[simp] theorem rxPop_txf : (rxPop s).txf = s.txf := by
  unfold rxPop; split <;> rfl
@[simp] theorem rxPop_tsr : (rxPop s).tsr = s.tsr := by
  unfold rxPop; split <;> rfl
@[simp] theorem rxPop_lineOut : (rxPop s).lineOut = s.lineOut := by
  unfold rxPop; split <;> rfl
@[simp] theorem rxPop_mem : (rxPop s).mem = s.mem := by
  unfold rxPop; split <;> rfl
@[simp] theorem rxPop_turns : (rxPop s).turns = s.turns := by
  unfold rxPop; split <;> rfl

/-! ## What disableEffect leaves unchanged -/

@[simp] theorem disableEffect_ph : (disableEffect P s).ph = s.ph := by
  unfold disableEffect; split <;> rfl
@[simp] theorem disableEffect_cmdL : (disableEffect P s).cmdL = s.cmdL := by
  unfold disableEffect; split <;> rfl
@[simp] theorem disableEffect_opaL : (disableEffect P s).opaL = s.opaL := by
  unfold disableEffect; split <;> rfl
@[simp] theorem disableEffect_opbL : (disableEffect P s).opbL = s.opbL := by
  unfold disableEffect; split <;> rfl
@[simp] theorem disableEffect_k : (disableEffect P s).k = s.k := by
  unfold disableEffect; split <;> rfl
@[simp] theorem disableEffect_w : (disableEffect P s).w = s.w := by
  unfold disableEffect; split <;> rfl
@[simp] theorem disableEffect_snap : (disableEffect P s).snap = s.snap := by
  unfold disableEffect; split <;> rfl
@[simp] theorem disableEffect_e : (disableEffect P s).e = s.e := by
  unfold disableEffect; split <;> rfl
@[simp] theorem disableEffect_clk : (disableEffect P s).clk = s.clk := by
  unfold disableEffect; split <;> rfl
@[simp] theorem disableEffect_d : (disableEffect P s).d = s.d := by
  unfold disableEffect; split <;> rfl
@[simp] theorem disableEffect_t : (disableEffect P s).t = s.t := by
  unfold disableEffect; split <;> rfl
@[simp] theorem disableEffect_cmd : (disableEffect P s).cmd = s.cmd := by
  unfold disableEffect; split <;> rfl
@[simp] theorem disableEffect_opa : (disableEffect P s).opa = s.opa := by
  unfold disableEffect; split <;> rfl
@[simp] theorem disableEffect_opb : (disableEffect P s).opb = s.opb := by
  unfold disableEffect; split <;> rfl
@[simp] theorem disableEffect_res : (disableEffect P s).res = s.res := by
  unfold disableEffect; split <;> rfl
@[simp] theorem disableEffect_fault : (disableEffect P s).fault = s.fault := by
  unfold disableEffect; split <;> rfl
@[simp] theorem disableEffect_mode : (disableEffect P s).mode = s.mode := by
  unfold disableEffect; split <;> rfl
@[simp] theorem disableEffect_staLo : (disableEffect P s).staLo = s.staLo := by
  unfold disableEffect; split <;> rfl
@[simp] theorem disableEffect_staHi : (disableEffect P s).staHi = s.staHi := by
  unfold disableEffect; split <;> rfl
@[simp] theorem disableEffect_brg : (disableEffect P s).brg = s.brg := by
  unfold disableEffect; split <;> rfl
@[simp] theorem disableEffect_lineOut : (disableEffect P s).lineOut = s.lineOut := by
  unfold disableEffect; split <;> rfl
@[simp] theorem disableEffect_mem : (disableEffect P s).mem = s.mem := by
  unfold disableEffect; split <;> rfl
@[simp] theorem disableEffect_turns : (disableEffect P s).turns = s.turns := by
  unfold disableEffect; split <;> rfl

@[simp] theorem disableEffect_utxen : (disableEffect P s).utxen = false := by
  unfold disableEffect; split <;> rfl
@[simp] theorem disableEffect_urxen : (disableEffect P s).urxen = false := by
  unfold disableEffect; split <;> rfl
@[simp] theorem disableEffect_utxbrk : (disableEffect P s).utxbrk = false := by
  unfold disableEffect; split <;> rfl

/-- R85's last choice: the FIFOs, TSR and the overrun latch are all kept or all emptied. -/
theorem disableEffect_flush :
    ((disableEffect P s).rxf = s.rxf ∧ (disableEffect P s).oerr = s.oerr ∧ (disableEffect P s).txf = s.txf ∧
      (disableEffect P s).tsr = s.tsr) ∨
    ((disableEffect P s).rxf = [] ∧ (disableEffect P s).oerr = false ∧ (disableEffect P s).txf = [] ∧
      (disableEffect P s).tsr = none) := by
  unfold disableEffect
  split
  · exact .inl ⟨rfl, rfl, rfl, rfl⟩
  · exact .inr ⟨rfl, rfl, rfl, rfl⟩

/-! ## What oerrClearEffect leaves unchanged -/

@[simp] theorem oerrClearEffect_ph : (oerrClearEffect P s).ph = s.ph := by
  unfold oerrClearEffect; split <;> rfl
@[simp] theorem oerrClearEffect_cmdL : (oerrClearEffect P s).cmdL = s.cmdL := by
  unfold oerrClearEffect; split <;> rfl
@[simp] theorem oerrClearEffect_opaL : (oerrClearEffect P s).opaL = s.opaL := by
  unfold oerrClearEffect; split <;> rfl
@[simp] theorem oerrClearEffect_opbL : (oerrClearEffect P s).opbL = s.opbL := by
  unfold oerrClearEffect; split <;> rfl
@[simp] theorem oerrClearEffect_k : (oerrClearEffect P s).k = s.k := by
  unfold oerrClearEffect; split <;> rfl
@[simp] theorem oerrClearEffect_w : (oerrClearEffect P s).w = s.w := by
  unfold oerrClearEffect; split <;> rfl
@[simp] theorem oerrClearEffect_snap : (oerrClearEffect P s).snap = s.snap := by
  unfold oerrClearEffect; split <;> rfl
@[simp] theorem oerrClearEffect_e : (oerrClearEffect P s).e = s.e := by
  unfold oerrClearEffect; split <;> rfl
@[simp] theorem oerrClearEffect_clk : (oerrClearEffect P s).clk = s.clk := by
  unfold oerrClearEffect; split <;> rfl
@[simp] theorem oerrClearEffect_d : (oerrClearEffect P s).d = s.d := by
  unfold oerrClearEffect; split <;> rfl
@[simp] theorem oerrClearEffect_t : (oerrClearEffect P s).t = s.t := by
  unfold oerrClearEffect; split <;> rfl
@[simp] theorem oerrClearEffect_cmd : (oerrClearEffect P s).cmd = s.cmd := by
  unfold oerrClearEffect; split <;> rfl
@[simp] theorem oerrClearEffect_opa : (oerrClearEffect P s).opa = s.opa := by
  unfold oerrClearEffect; split <;> rfl
@[simp] theorem oerrClearEffect_opb : (oerrClearEffect P s).opb = s.opb := by
  unfold oerrClearEffect; split <;> rfl
@[simp] theorem oerrClearEffect_res : (oerrClearEffect P s).res = s.res := by
  unfold oerrClearEffect; split <;> rfl
@[simp] theorem oerrClearEffect_fault : (oerrClearEffect P s).fault = s.fault := by
  unfold oerrClearEffect; split <;> rfl
@[simp] theorem oerrClearEffect_mode : (oerrClearEffect P s).mode = s.mode := by
  unfold oerrClearEffect; split <;> rfl
@[simp] theorem oerrClearEffect_oerr : (oerrClearEffect P s).oerr = s.oerr := by
  unfold oerrClearEffect; split <;> rfl
@[simp] theorem oerrClearEffect_utxen : (oerrClearEffect P s).utxen = s.utxen := by
  unfold oerrClearEffect; split <;> rfl
@[simp] theorem oerrClearEffect_utxbrk : (oerrClearEffect P s).utxbrk = s.utxbrk := by
  unfold oerrClearEffect; split <;> rfl
@[simp] theorem oerrClearEffect_urxen : (oerrClearEffect P s).urxen = s.urxen := by
  unfold oerrClearEffect; split <;> rfl
@[simp] theorem oerrClearEffect_staLo : (oerrClearEffect P s).staLo = s.staLo := by
  unfold oerrClearEffect; split <;> rfl
@[simp] theorem oerrClearEffect_staHi : (oerrClearEffect P s).staHi = s.staHi := by
  unfold oerrClearEffect; split <;> rfl
@[simp] theorem oerrClearEffect_brg : (oerrClearEffect P s).brg = s.brg := by
  unfold oerrClearEffect; split <;> rfl
@[simp] theorem oerrClearEffect_txf : (oerrClearEffect P s).txf = s.txf := by
  unfold oerrClearEffect; split <;> rfl
@[simp] theorem oerrClearEffect_tsr : (oerrClearEffect P s).tsr = s.tsr := by
  unfold oerrClearEffect; split <;> rfl
@[simp] theorem oerrClearEffect_lineOut : (oerrClearEffect P s).lineOut = s.lineOut := by
  unfold oerrClearEffect; split <;> rfl
@[simp] theorem oerrClearEffect_mem : (oerrClearEffect P s).mem = s.mem := by
  unfold oerrClearEffect; split <;> rfl
@[simp] theorem oerrClearEffect_turns : (oerrClearEffect P s).turns = s.turns := by
  unfold oerrClearEffect; split <;> rfl

/-- R86's choice: the receive FIFO is kept or emptied. -/
theorem oerrClearEffect_rxf : (oerrClearEffect P s).rxf = s.rxf ∨ (oerrClearEffect P s).rxf = [] := by
  unfold oerrClearEffect
  split
  · exact .inl rfl
  · exact .inr rfl

section
variable (c : Word)

/-! ## What writeSta leaves unchanged -/

@[simp] theorem writeSta_ph : (writeSta P c s).ph = s.ph := by
  unfold writeSta; dsimp only; split <;> simp
@[simp] theorem writeSta_cmdL : (writeSta P c s).cmdL = s.cmdL := by
  unfold writeSta; dsimp only; split <;> simp
@[simp] theorem writeSta_opaL : (writeSta P c s).opaL = s.opaL := by
  unfold writeSta; dsimp only; split <;> simp
@[simp] theorem writeSta_opbL : (writeSta P c s).opbL = s.opbL := by
  unfold writeSta; dsimp only; split <;> simp
@[simp] theorem writeSta_k : (writeSta P c s).k = s.k := by
  unfold writeSta; dsimp only; split <;> simp
@[simp] theorem writeSta_w : (writeSta P c s).w = s.w := by
  unfold writeSta; dsimp only; split <;> simp
@[simp] theorem writeSta_snap : (writeSta P c s).snap = s.snap := by
  unfold writeSta; dsimp only; split <;> simp
@[simp] theorem writeSta_e : (writeSta P c s).e = s.e := by
  unfold writeSta; dsimp only; split <;> simp
@[simp] theorem writeSta_clk : (writeSta P c s).clk = s.clk := by
  unfold writeSta; dsimp only; split <;> simp
@[simp] theorem writeSta_d : (writeSta P c s).d = s.d := by
  unfold writeSta; dsimp only; split <;> simp
@[simp] theorem writeSta_t : (writeSta P c s).t = s.t := by
  unfold writeSta; dsimp only; split <;> simp
@[simp] theorem writeSta_cmd : (writeSta P c s).cmd = s.cmd := by
  unfold writeSta; dsimp only; split <;> simp
@[simp] theorem writeSta_opa : (writeSta P c s).opa = s.opa := by
  unfold writeSta; dsimp only; split <;> simp
@[simp] theorem writeSta_opb : (writeSta P c s).opb = s.opb := by
  unfold writeSta; dsimp only; split <;> simp
@[simp] theorem writeSta_res : (writeSta P c s).res = s.res := by
  unfold writeSta; dsimp only; split <;> simp
@[simp] theorem writeSta_fault : (writeSta P c s).fault = s.fault := by
  unfold writeSta; dsimp only; split <;> simp
@[simp] theorem writeSta_mode : (writeSta P c s).mode = s.mode := by
  unfold writeSta; dsimp only; split <;> simp
@[simp] theorem writeSta_brg : (writeSta P c s).brg = s.brg := by
  unfold writeSta; dsimp only; split <;> simp
@[simp] theorem writeSta_txf : (writeSta P c s).txf = s.txf := by
  unfold writeSta; dsimp only; split <;> simp
@[simp] theorem writeSta_tsr : (writeSta P c s).tsr = s.tsr := by
  unfold writeSta; dsimp only; split <;> simp
@[simp] theorem writeSta_lineOut : (writeSta P c s).lineOut = s.lineOut := by
  unfold writeSta; dsimp only; split <;> simp
@[simp] theorem writeSta_mem : (writeSta P c s).mem = s.mem := by
  unfold writeSta; dsimp only; split <;> simp
@[simp] theorem writeSta_turns : (writeSta P c s).turns = s.turns := by
  unfold writeSta; dsimp only; split <;> simp

@[simp] theorem writeSta_utxen : (writeSta P c s).utxen = c.getLsbD 10 := by
  unfold writeSta; dsimp only; split <;> simp
@[simp] theorem writeSta_utxbrk : (writeSta P c s).utxbrk = c.getLsbD 11 := by
  unfold writeSta; dsimp only; split <;> simp
@[simp] theorem writeSta_urxen : (writeSta P c s).urxen = c.getLsbD 12 := by
  unfold writeSta; dsimp only; split <;> simp
@[simp] theorem writeSta_staLo : (writeSta P c s).staLo = c.extractLsb' 5 3 := by
  unfold writeSta; dsimp only; split <;> simp
@[simp] theorem writeSta_staHi : (writeSta P c s).staHi = c.extractLsb' 13 12 := by
  unfold writeSta; dsimp only; split <;> simp
@[simp] theorem writeSta_oerr : (writeSta P c s).oerr = (s.oerr && c.getLsbD 1) := by
  unfold writeSta; dsimp only; split <;> simp

/-- The receive FIFO moves only by the OERR-clear effect. -/
theorem writeSta_rxf : (writeSta P c s).rxf = s.rxf ∨ (s.oerr = true ∧ (writeSta P c s).rxf = []) := by
  unfold writeSta
  dsimp only
  split
  · rename_i h
    rcases oerrClearEffect_rxf P { s with
      staHi := c.extractLsb' 13 12, urxen := c.getLsbD 12, utxbrk := c.getLsbD 11, utxen := c.getLsbD 10,
      staLo := c.extractLsb' 5 3, oerr := s.oerr && c.getLsbD 1 } with h' | h'
    · exact .inl h'
    · exact .inr ⟨h.1, h'⟩
  · exact .inl rfl

/-- A write that does not clear OERR has no effect beyond the bits it stores. -/
theorem writeSta_rxf_keep (h : s.oerr = true → c.getLsbD 1 = true) :
    (writeSta P c s).rxf = s.rxf ∧ (writeSta P c s).draws = s.draws := by
  unfold writeSta
  dsimp only
  split
  · rename_i h'
    have h1 := h h'.1
    rw [h'.1, h1] at h'
    simp at h'
  · exact ⟨rfl, rfl⟩

end

/-! ## MODE's fields through the image operations -/

@[simp] theorem modeOn_or {n : Nat} (a b : BitVec n) : modeOn (a ||| b) = (modeOn a || modeOn b) :=
  BitVec.getLsbD_or
@[simp] theorem modeAbaud_or {n : Nat} (a b : BitVec n) : modeAbaud (a ||| b) = (modeAbaud a || modeAbaud b) :=
  BitVec.getLsbD_or
@[simp] theorem modeBrgh_or {n : Nat} (a b : BitVec n) : modeBrgh (a ||| b) = (modeBrgh a || modeBrgh b) :=
  BitVec.getLsbD_or
@[simp] theorem modeStsel_or {n : Nat} (a b : BitVec n) : modeStsel (a ||| b) = (modeStsel a || modeStsel b) :=
  BitVec.getLsbD_or
@[simp] theorem modePdsel_or {n : Nat} (a b : BitVec n) : modePdsel (a ||| b) = modePdsel a ||| modePdsel b :=
  BitVec.extractLsb'_or
@[simp] theorem modeOn_and {n : Nat} (a b : BitVec n) : modeOn (a &&& b) = (modeOn a && modeOn b) :=
  BitVec.getLsbD_and
@[simp] theorem modeAbaud_and {n : Nat} (a b : BitVec n) : modeAbaud (a &&& b) = (modeAbaud a && modeAbaud b) :=
  BitVec.getLsbD_and
@[simp] theorem modeBrgh_and {n : Nat} (a b : BitVec n) : modeBrgh (a &&& b) = (modeBrgh a && modeBrgh b) :=
  BitVec.getLsbD_and
@[simp] theorem modeStsel_and {n : Nat} (a b : BitVec n) : modeStsel (a &&& b) = (modeStsel a && modeStsel b) :=
  BitVec.getLsbD_and
@[simp] theorem modePdsel_and {n : Nat} (a b : BitVec n) : modePdsel (a &&& b) = modePdsel a &&& modePdsel b :=
  BitVec.extractLsb'_and

/-- A MODESET write's candidate (R82), on the stored bits. -/
@[simp] theorem modeImage_or (v : Word) : (modeImage s ||| v).setWidth 16 = s.mode ||| v.setWidth 16 := by
  unfold modeImage; ext i hi; simp

/-- A MODECLR write's candidate (R82), on the stored bits. -/
@[simp] theorem modeImage_and_not (v : Word) :
    (modeImage s &&& ~~~v).setWidth 16 = s.mode &&& ~~~(v.setWidth 16) := by
  unfold modeImage; ext i hi; simp

@[simp] theorem modeImage_setWidth : (modeImage s).setWidth 16 = s.mode := by
  unfold modeImage; ext i hi; simp

/-! ## MODE writes (R81-R83, R85) -/

theorem writeMode_error (new : Half) (kind : FaultKind) (h : modeCheck s.mode new = some kind) :
    writeMode P new s = .error kind := by unfold writeMode; rw [h]

/-- With ON = 0 before, any image is taken and nothing else moves. -/
theorem writeMode_off (new : Half) (h : modeOn s.mode = false) :
    writeMode P new s = .ok { s with mode := new } := by
  unfold writeMode modeCheck; simp [h]

/-- A write that leaves ON = 1, PDSEL, STSEL, BRGH and a set ABAUD alone is performed. -/
theorem writeMode_on (new : Half) (hon : modeOn s.mode = true) (hon' : modeOn new = true)
    (ha : modeAbaud s.mode = true → modeAbaud new = true) (hp : modePdsel new = modePdsel s.mode)
    (hs : modeStsel new = modeStsel s.mode) (hb : modeBrgh new = modeBrgh s.mode) :
    writeMode P new s = .ok { s with mode := new } := by
  have : modeCheck s.mode new = none := by
    unfold modeCheck
    rw [if_neg, if_neg]
    · rintro ⟨-, -, h⟩; simp_all
    · rintro ⟨-, h, h'⟩; simp [ha h] at h'
  unfold writeMode; rw [this]; simp [hon, hon']

/-- A write that turns the peripheral off, ABAUD not being cleared, has the disable effect. -/
theorem writeMode_disable (new : Half) (hon : modeOn s.mode = true) (hoff : modeOn new = false)
    (ha : modeAbaud s.mode = true → modeAbaud new = true) :
    writeMode P new s = .ok (disableEffect P { s with mode := new }) := by
  have : modeCheck s.mode new = none := by
    unfold modeCheck
    rw [if_neg, if_neg]
    · rintro ⟨-, h, -⟩; simp [hoff] at h
    · rintro ⟨-, h, h'⟩; simp [ha h] at h'
  unfold writeMode; rw [this]; simp [hon, hoff]

/-- What a performed MODE write is. -/
theorem writeMode_cases (new : Half) (s' : State) (h : writeMode P new s = .ok s') :
    s' = { s with mode := new } ∨
      (modeOn s.mode = true ∧ modeOn new = false ∧ s' = disableEffect P { s with mode := new }) := by
  unfold writeMode at h
  split at h
  · simp at h
  · simp only [Except.ok.injEq] at h
    split at h
    · rename_i h'; exact .inr ⟨h'.1, h'.2, h.symm⟩
    · exact .inl h.symm

/-! ## STA's set and clear writes (R82) -/

theorem staImage_staLo (r : Bool) : (staImage P s r).extractLsb' 5 3 = s.staLo := by
  apply BitVec.eq_of_getLsbD_eq
  intro i hi
  rw [BitVec.getLsbD_extractLsb', staImage_getLsbD]
  interval_cases i <;> simp

theorem staImage_staHi (r : Bool) : (staImage P s r).extractLsb' 13 12 = s.staHi := by
  apply BitVec.eq_of_getLsbD_eq
  intro i hi
  rw [BitVec.getLsbD_extractLsb', staImage_getLsbD]
  interval_cases i <;> simp

/-- A STASET write: the writable bits it names are set, nothing else moves. -/
theorem regWrite_staSet (v : Word) : regWrite P .staSet v s = .ok { s with
    staHi := s.staHi ||| v.extractLsb' 13 12
    urxen := s.urxen || v.getLsbD 12
    utxbrk := s.utxbrk || v.getLsbD 11
    utxen := s.utxen || v.getLsbD 10
    staLo := s.staLo ||| v.extractLsb' 5 3 } := by
  have hb : ∀ i, (staOld P s ||| v).getLsbD i = ((staOld P s).getLsbD i || v.getLsbD i) :=
    fun i => BitVec.getLsbD_or
  have h1 : (s.oerr && (staOld P s ||| v).getLsbD 1) = s.oerr := by
    rw [hb]; unfold staOld; rw [staImage_getLsbD]; cases s.oerr <;> rfl
  unfold regWrite writeSta
  dsimp only
  rw [if_neg (by rw [h1]; rintro ⟨h, h'⟩; rw [h] at h'; cases h')]
  simp only [hb, BitVec.extractLsb'_or]
  unfold staOld
  rw [staImage_staHi, staImage_staLo]
  simp only [staImage_getLsbD]
  cases s.oerr <;> rfl

/-- ErrorClear's STACLR write (R141): the overrun latch is cleared, with its effect (R86). -/
theorem regWrite_staClr_oerr : regWrite P .staClr sOerr s =
    .ok (if s.oerr = true then oerrClearEffect P { s with oerr := false } else s) := by
  have hb : ∀ i, (staOld P s &&& ~~~sOerr).getLsbD i =
      ((staOld P s).getLsbD i && (~~~sOerr).getLsbD i) := fun i => BitVec.getLsbD_and
  have e1 : (~~~sOerr).extractLsb' 13 12 = BitVec.allOnes 12 := by decide
  have e2 : (~~~sOerr).extractLsb' 5 3 = BitVec.allOnes 3 := by decide
  have b1 : (~~~sOerr).getLsbD 1 = false := by decide
  have b10 : (~~~sOerr).getLsbD 10 = true := by decide
  have b11 : (~~~sOerr).getLsbD 11 = true := by decide
  have b12 : (~~~sOerr).getLsbD 12 = true := by decide
  unfold regWrite writeSta
  simp only [hb, BitVec.extractLsb'_and, e1, e2, b1, b10, b11, b12, BitVec.and_allOnes, Bool.and_true,
    Bool.and_false]
  unfold staOld
  rw [staImage_staHi, staImage_staLo]
  simp only [staImage_getLsbD]
  by_cases h : s.oerr = true
  · simp [h]
  · simp only [h]; cases s; simp_all

/-! ## S.7's rewrite (R122) -/

/-- Bit by bit: STSEL, then PDSEL, then the image as read. -/
theorem setupMode_getLsbD (t : Word) (wd : Bool) (par : BitVec 2) (sb : Bool) (i : Nat) (hi : i < 32) :
    (setupMode t wd par sb).getLsbD i =
      (if i = 0 then sb else if i = 1 then (pdselNew wd par).getLsbD 0
        else if i = 2 then (pdselNew wd par).getLsbD 1 else t.getLsbD i) := by
  have hm : ∀ j, (~~~(mPdsel ||| mStsel)).getLsbD j = (decide (j < 32) && decide (3 ≤ j)) := by
    intro j
    by_cases hj : j < 32
    · interval_cases j <;> decide
    · rw [BitVec.getLsbD_of_ge _ _ (by omega)]; simp [hj]
  unfold setupMode
  rw [BitVec.getLsbD_or, BitVec.getLsbD_or, BitVec.getLsbD_and, hm, BitVec.getLsbD_shiftLeft,
    BitVec.getLsbD_setWidth, BitVec.getLsbD_setWidth, BitVec.getLsbD_ofBool]
  rcases Nat.lt_or_ge i 3 with h | h
  · interval_cases i <;> simp
  · rw [if_neg (by omega), if_neg (by omega), if_neg (by omega),
      BitVec.getLsbD_of_ge (pdselNew wd par) (i - 1) (by omega)]
    simp [hi, h]; omega

section
variable (t : Word) (wd : Bool) (par : BitVec 2) (sb : Bool)

@[simp] theorem setupMode_pdsel : modePdsel ((setupMode t wd par sb).setWidth 16) = pdselNew wd par := by
  apply BitVec.eq_of_getLsbD_eq
  intro i hi
  unfold modePdsel
  rw [BitVec.getLsbD_extractLsb', BitVec.getLsbD_setWidth, setupMode_getLsbD _ _ _ _ _ (by omega)]
  interval_cases i <;> simp

@[simp] theorem setupMode_stsel : modeStsel ((setupMode t wd par sb).setWidth 16) = sb := by
  unfold modeStsel; rw [BitVec.getLsbD_setWidth, setupMode_getLsbD _ _ _ _ _ (by omega)]; simp

@[simp] theorem setupMode_on : modeOn ((setupMode t wd par sb).setWidth 16) = modeOn t := by
  unfold modeOn; rw [BitVec.getLsbD_setWidth, setupMode_getLsbD _ _ _ _ _ (by omega)]; simp

@[simp] theorem setupMode_abaud : modeAbaud ((setupMode t wd par sb).setWidth 16) = modeAbaud t := by
  unfold modeAbaud; rw [BitVec.getLsbD_setWidth, setupMode_getLsbD _ _ _ _ _ (by omega)]; simp

@[simp] theorem setupMode_brgh : modeBrgh ((setupMode t wd par sb).setWidth 16) = modeBrgh t := by
  unfold modeBrgh; rw [BitVec.getLsbD_setWidth, setupMode_getLsbD _ _ _ _ _ (by omega)]; simp

end

/-! ## Buffer accesses (R73-R76) -/

/-- The conditions under which an access is performed. -/
theorem memCheck_none (addr n : Nat) (hal : n = 2 → addr % 2 = 0) (hb : addr + n - 1 ≤ 2 ^ 32 - 1)
    (hadm : P.memAdmit addr n = true) : memCheck P addr n = none := by
  unfold memCheck
  rw [if_neg (by rintro ⟨h, h'⟩; have := hal h; omega), if_pos ⟨hb, hadm⟩]

theorem memCheck_none_iff (addr n : Nat) : memCheck P addr n = none ↔
    (n = 2 → addr % 2 = 0) ∧ addr + n - 1 ≤ 2 ^ 32 - 1 ∧ P.memAdmit addr n = true := by
  unfold memCheck
  split_ifs with h1 h2
  · simp; omega
  · simp only [true_iff]; exact ⟨fun h => by omega, h2⟩
  · simp only [false_iff]; exact fun h => h2 h.2

/-- A performed write changes memory only, and keeps its canonical form. -/
theorem memWrite_cases (addr n : Nat) (v : Half) (s' : State) (h : memWrite P addr n v s = .ok s') :
    ∃ m, s' = { s with mem := m } ∧ memCheck P addr n = none ∧
      m = (let low := Memory.write s.mem addr (v.extractLsb' 0 8)
        if n = 2 then Memory.write low (addr + 1) (v.extractLsb' 8 8) else low) := by
  unfold memWrite at h
  split at h
  · simp at h
  · rename_i hc
    simp only [Except.ok.injEq] at h
    exact ⟨_, h.symm, hc, rfl⟩

theorem memWrite_wf (addr n : Nat) (v : Half) (s' : State) (hn : n = 1 ∨ n = 2) (hwf : Memory.wf s.mem)
    (h : memWrite P addr n v s = .ok s') : Memory.wf s'.mem := by
  obtain ⟨m, rfl, hc, rfl⟩ := memWrite_cases P s addr n v s' h
  have hb := ((memCheck_none_iff P addr n).1 hc).2.1
  dsimp only
  rcases hn with rfl | rfl
  · rw [if_neg (by decide)]; exact Memory.write_wf _ _ _ (by omega) hwf
  · rw [if_pos rfl]
    exact Memory.write_wf _ _ _ (by omega) (Memory.write_wf _ _ _ (by omega) hwf)

/-- A performed write leaves every byte outside `[addr, addr + n)` alone. -/
theorem memWrite_other (addr n : Nat) (v : Half) (s' : State) (hn : n = 1 ∨ n = 2)
    (h : memWrite P addr n v s = .ok s') (a : Nat) (ha : a < addr ∨ addr + n ≤ a) :
    Memory.read s'.mem a = Memory.read s.mem a := by
  obtain ⟨m, rfl, hc, rfl⟩ := memWrite_cases P s addr n v s' h
  dsimp only
  rcases hn with rfl | rfl
  · rw [if_neg (by decide), Memory.read_write_other _ _ (by omega)]
  · rw [if_pos rfl, Memory.read_write_other _ _ (by omega), Memory.read_write_other _ _ (by omega)]

end

end Sys2Proof.Machine
end

