-- ==== Sys2Proof/Laws/PerInstr.lean ====
section
/-! SUPPORT. A fact about every command as syntax, one lemma a constructor: its word carries its opcode in bits
3:0 and 0 in the Z field (30_encoding.md rules R101, R107). -/

namespace Sys2Proof.Laws.OpcodeField

/-- The command's word has its opcode in bits 3:0 and a zero Z field. -/
def Statement (i : Instr) : Prop :=
  (encode i).extractLsb' 4 4 = 0#4 ∧ (encode i).extractLsb' 0 4 = i.opcode

theorem initialise : Statement .initialise := by unfold Statement; decide
theorem serialSetup (cp wd : Bool) (par : BitVec 2) (sb : Bool) : Statement (.serialSetup cp wd par sb) := by
  unfold Statement; revert cp wd par sb; decide
theorem errorGet : Statement .errorGet := by unfold Statement; decide
theorem read : Statement .read := by unfold Statement; decide
theorem write : Statement .write := by unfold Statement; decide
theorem writeByte : Statement .writeByte := by unfold Statement; decide
theorem readByte : Statement .readByte := by unfold Statement; decide
theorem txReady : Statement .txReady := by unfold Statement; decide
theorem rxReady : Statement .rxReady := by unfold Statement; decide
theorem txComplete : Statement .txComplete := by unfold Statement; decide
theorem autobaudQuery : Statement .autobaudQuery := by unfold Statement; decide
theorem autobaudSet (en : Bool) : Statement (.autobaudSet en) := by unfold Statement; revert en; decide

end Sys2Proof.Laws.OpcodeField
end

