-- ==== Sys2Proof/Laws/Step.lean ====
section
/-! SUPPORT. One step as one agent's turn, and the sequencer's turn as the latched command's meaning: the lemmas
through which a claim about a meaning reaches a run. -/

namespace Sys2Proof.Machine

/-- With no turn scheduled the sequencer steps. -/
theorem step_nil (s : State) (h : s.turns = []) : step s = sequencerTurn s := by
  unfold step; rw [h]

/-- The scheduled turn is taken off and taken. -/
theorem step_cons (s : State) (turn : Turn) (rest : List Turn) (h : s.turns = turn :: rest) :
    step s = takeTurn turn { s with turns := rest } := by
  unfold step; rw [h]

/-- Whatever a step does, it is some agent's turn on the same state less the turn taken. -/
theorem step_is_turn (s : State) : ∃ turn, step s = takeTurn turn { s with turns := s.turns.tail } := by
  cases h : s.turns with
  | nil => exact ⟨.sequencer, by rw [step_nil s h, List.tail_nil, ← h]; rfl⟩
  | cons turn rest => exact ⟨turn, step_cons s turn rest h⟩

/-- At a label the sequencer's turn is the latched command's meaning. -/
theorem sequencerTurn_label (s : State) (i : Instr) (hi : s.ph ≠ .idle) (hf : s.ph ≠ .faulted)
    (hd : decode s.cmdL = .command i) : sequencerTurn s = exec i s := by
  unfold sequencerTurn
  split
  · exact absurd ‹_› hi
  · exact absurd ‹_› hf
  · rw [hd]

theorem sequencerTurn_idle (s : State) (h : s.ph = .idle) : sequencerTurn s = .next s := by
  unfold sequencerTurn; rw [h]

theorem sequencerTurn_faulted (s : State) (h : s.ph = .faulted) : sequencerTurn s = .next s := by
  unfold sequencerTurn; rw [h]

/-- What a host write to CMD can do (R196, R210, R211). -/
theorem writeCmd_cases (W : Word) (s : State) :
    (s.ph = .idle ∧ writeCmd W s = accept W s) ∨ (s.ph = .faulted ∧ writeCmd W s = s) ∨
      (s.ph ≠ .idle ∧ s.ph ≠ .faulted ∧ writeCmd W s = raise .cmdWhileBusy s) := by
  unfold writeCmd
  split
  · exact .inl ⟨‹_›, rfl⟩
  · exact .inr (.inl ⟨‹_›, rfl⟩)
  · exact .inr (.inr ⟨‹_›, ‹_›, rfl⟩)

theorem accept_command (W : Word) (s : State) (i : Instr) (h : decode W = .command i) :
    accept W s = { s with
      cmd := W, cmdL := W, opaL := s.opa, opbL := s.opb, res := 0
      k := if isTransfer i then 0 else s.k, ph := firstLabel i } := by
  unfold accept; rw [h]

theorem accept_illegal (W : Word) (s : State) (why : IllegalWord) (h : decode W = .illegal why) :
    accept W s = { s with
      cmd := W, cmdL := W, opaL := s.opa, opbL := s.opb
      res := resWord .illegal .illegalEncoding 0, ph := .idle } := by
  unfold accept; rw [h]; rfl

/-- What a host write of memory can do (R212). -/
theorem hostWriteMem_cases (addr : Word) (v : Byte) (s : State) :
    hostWriteMem addr v s = { s with mem := Memory.write s.mem addr.toNat v } ∨
      (ownedByTransfer s addr.toNat = true ∧
        hostWriteMem addr v s = raise .hostBufferWrite { s with mem := Memory.write s.mem addr.toNat v }) := by
  unfold hostWriteMem
  dsimp only
  split
  · exact .inr ⟨‹_›, rfl⟩
  · exact .inl rfl

/-- A host write of memory keeps its canonical form. -/
theorem hostWriteMem_wf (addr : Word) (v : Byte) (s : State) (h : Memory.wf s.mem) :
    Memory.wf (hostWriteMem addr v s).mem := by
  have hw := Memory.write_wf s.mem addr.toNat v addr.isLt h
  rcases hostWriteMem_cases addr v s with h' | ⟨-, h'⟩ <;> rw [h'] <;> exact hw

/-- A line event that occurs had its guard. -/
theorem lineTurn_cases (P : Params) (e : LineEvent) (s : State) :
    lineTurn P e s = s ∨ (lineEnabled P e s = true ∧ lineTurn P e s = lineEffect P e s) := by
  unfold lineTurn
  split
  · exact .inr ⟨‹_›, rfl⟩
  · exact .inl rfl

end Sys2Proof.Machine
end

