-- ==== Sys2Proof/Laws/Run.lean ====
section
/-! SUPPORT. Host programs and the end of a run (30_encoding.md rule R112, 60_exceptions.md rule R215): what a poll
and a program's start leave alone, and that a run has at most one end, which meets the condition. -/

namespace Sys2Proof.Machine

/-- A poll moves nothing but the schedule. -/
theorem pollBusy_frame (s : State) : pollBusy s = { s with turns := (pollBusy s).turns } := by
  unfold pollBusy; split <;> rfl

/-- With BUSY = 0 the host program goes on. -/
theorem pollBusy_idle (s : State) (h : s.ph = .idle) : pollBusy s = s := by
  unfold pollBusy busy; rw [h]; rfl

/-- With BUSY = 1, in FAULTED too (R27), the host polls again after a step of the sequencer. -/
theorem pollBusy_busy (s : State) (h : s.ph ≠ .idle) :
    pollBusy s = { s with turns := .sequencer :: .host .pollBusy :: s.turns } := by
  unfold pollBusy busy; rw [if_pos (bne_iff_ne.2 h)]

@[simp] theorem State.withProgram_turns (s : State) (program : List HostLine) :
    (s.withProgram program).turns = programTurns program := rfl

@[simp] theorem programTurns_nil : programTurns [] = [] := rfl

@[simp] theorem programTurns_cons (line : HostLine) (program : List HostLine) :
    programTurns (line :: program) = line.turns ++ programTurns program := rfl

end Sys2Proof.Machine

namespace Sys2Proof.Safety

open Sys2Proof.Machine

theorem runEnded_iff (s : State) : runEnded s = true ↔ RunEnded s := by
  unfold runEnded RunEnded; simp

/-- A state that meets the condition is the end of its own run. -/
theorem runEnd_ended (n : Nat) (s : State) (h : runEnded s = true) : runEnd n s = some s := by
  cases n <;> simp [runEnd, h]

/-- The end of a run meets the condition of R215. -/
theorem runEnd_condition (n : Nat) (s t : State) (h : runEnd n s = some t) : RunEnded t := by
  induction n generalizing s with
  | zero =>
    unfold runEnd at h
    split at h
    · cases h; exact (runEnded_iff _).1 ‹_›
    · cases h
  | succ n ih =>
    unfold runEnd at h
    split at h
    · cases h; exact (runEnded_iff _).1 ‹_›
    · split at h
      · exact ih _ h
      · cases h
      · cases h

/-- More steps do not move the end: it is the first state that meets the condition. -/
theorem runEnd_mono (m n : Nat) (s t : State) (hmn : m ≤ n) (h : runEnd m s = some t) : runEnd n s = some t := by
  induction m generalizing n s with
  | zero =>
    unfold runEnd at h
    split at h
    · cases h; exact runEnd_ended n _ ‹_›
    · cases h
  | succ m ih =>
    obtain ⟨n, rfl⟩ : ∃ k, n = k + 1 := ⟨n - 1, by omega⟩
    unfold runEnd at h ⊢
    split at h
    · rw [if_pos ‹_›]; exact h
    · rw [if_neg ‹_›]
      cases hs : step s with
      | next u => rw [hs] at h; exact ih n u (by omega) h
      | fault r => rw [hs] at h; cases h
      | refused r => rw [hs] at h; cases h

/-- A run has at most one end. -/
theorem RunEndsIn.unique {s t u : State} (ht : RunEndsIn s t) (hu : RunEndsIn s u) : t = u := by
  obtain ⟨m, hm⟩ := ht
  obtain ⟨n, hn⟩ := hu
  rcases Nat.le_total m n with h | h
  · exact Option.some.inj ((runEnd_mono m n s t h hm).symm.trans hn)
  · exact (Option.some.inj ((runEnd_mono n m s u h hn).symm.trans hm)).symm

/-- A host program has at most one result. -/
theorem ProgramResult.unique {program : List HostLine} {s : State} {r q : RunResult}
    (hr : ProgramResult program s r) (hq : ProgramResult program s q) : r = q := by
  obtain ⟨-, t, ht, rfl⟩ := hr
  obtain ⟨-, u, hu, rfl⟩ := hq
  rw [ht.unique hu]

end Sys2Proof.Safety
end

