-- ==== Sys2Proof/Tests/Slice0.lean ====
section
/-! SUPPORT. Tests of the model by hand: words written out from the encoding tables (30_encoding.md R115), single
steps whose expected results stand in 95_test_vectors.md, and for every obligation with hypotheses a witness that
meets them. -/

namespace Sys2Proof.Tests

open Sys2Proof Sys2Proof.Machine Sys2Proof.Safety

/-! ## Helpers: the vectors' default parameters and start state (95_test_vectors.md section 0) -/

def P0 : Params where
  initBrg := 173
  clkDefault := 80000000
  rxDepth := 4
  rxDepth_pos := by decide
  txDepth := 4
  txDepth_pos := by decide
  uartBase := 0
  hostBase := 0
  memAdmit := fun _ _ => true
  readPreclear := .always
  errView := .head
  oerrClearFlush := .draw
  disableFlush := .draw
  autobaudHw := true
  drawRidle := fun _ => false
  drawUnit := fun _ => 0
  drawWord := fun _ => 0
  drawFlush := fun _ => .keep

/-- `TX_DEPTH = 1`, as several vectors have it. -/
def P1 : Params := { P0 with txDepth := 1, txDepth_pos := by decide }

/-- The `any` view of the error flags. -/
def PAny : Params := { P0 with errView := .any }

/-- `S_INIT`. -/
def sInit : State := { State.reset with mode := 0x8008#16, utxen := true, urxen := true, brg := 173, res := 1 }

/-- The state after a step, if there is one. -/
def after (o : Host.Outcome State Fault Refusal) : Option State :=
  match o with
  | .next t => some t
  | .fault _ => none
  | .refused _ => none

/-! ## Well-formedness and decoding (R109, R110, R115, V1) -/

theorem test_wellFormed_refuses_reserved_parity :
    (Instr.serialSetup true false 0b11#2 false).wellFormed = false ∧
      (Instr.serialSetup true true 0b11#2 true).wellFormed = false := by decide

theorem test_wellFormed_admits_null_with_any_parity :
    (Instr.serialSetup false true 0b11#2 true).wellFormed = true := by decide

theorem test_decode_plain_words :
    decode 0x00000000#32 = .command .initialise ∧ decode 0x00000002#32 = .command .errorGet ∧
      decode 0x00000003#32 = .command .read ∧ decode 0x00000004#32 = .command .write ∧
      decode 0x00000005#32 = .command .writeByte ∧ decode 0x00000006#32 = .command .readByte ∧
      decode 0x00000007#32 = .command .txReady ∧ decode 0x00000008#32 = .command .rxReady ∧
      decode 0x00000009#32 = .command .txComplete ∧ decode 0x0000000A#32 = .command .autobaudQuery := by decide

theorem test_decode_setup_words :
    decode 0x00000001#32 = .command (.serialSetup false false 0b00#2 false) ∧
      decode 0x00000101#32 = .command (.serialSetup true false 0b00#2 false) ∧
      decode 0x00000701#32 = .command (.serialSetup true true 0b01#2 false) ∧
      decode 0x00001B01#32 = .command (.serialSetup true true 0b10#2 true) ∧
      decode 0x00000C01#32 = .command (.serialSetup false false 0b11#2 false) := by decide

theorem test_decode_set_words :
    decode 0x0000000B#32 = .command (.autobaudSet false) ∧ decode 0x0000010B#32 = .command (.autobaudSet true) := by
  decide

theorem test_decode_illegal_words :
    decode 0x00000010#32 = .illegal .zField ∧ decode 0x00000100#32 = .illegal .mustBeZero ∧
      decode 0x80000003#32 = .illegal .mustBeZero ∧ decode 0x0000000F#32 = .illegal .reservedOpcode ∧
      decode 0x00000F01#32 = .illegal .reservedParity ∧ decode 0x00002001#32 = .illegal .mustBeZero ∧
      decode 0x0000020B#32 = .illegal .mustBeZero ∧ decode 0x0000001B#32 = .illegal .zField := by decide

theorem test_encode_setup_words :
    encode (.serialSetup true false 0b10#2 false) = 0x00000901#32 ∧
      encode (.serialSetup true true 0b10#2 true) = 0x00001B01#32 ∧
      encode (.autobaudSet true) = 0x0000010B#32 := by decide

theorem test_assemble_pseudo_lines :
    (AsmLine.serialSetupDefaultClock (.line true .none false) 115200).assemble =
        ⟨0x00000301#32, some 115200, some 0⟩ ∧
      AsmLine.autobaudEnable.assemble = ⟨0x0000010B#32, none, none⟩ := by decide

theorem test_decodeTableWord :
    decodeTableWord 32 0x101 = some (.serialSetup true false 0b00#2 false) ∧ decodeTableWord 32 0xC = none := by
  decide

/-- The first step after reset runs the word placed, for a word of every format. -/
theorem test_withFetchWord_runs_first :
    (∃ t, step (State.reset.withFetchWord 32 0x0) = .next t) ∧
      (∃ t, step (State.reset.withFetchWord 32 0x101) = .next t) ∧
      (∃ t, step (State.reset.withFetchWord 32 0x3) = .next t) ∧
      (∃ t, step (State.reset.withFetchWord 32 0x5) = .next t) ∧
      ∃ t, step (State.reset.withFetchWord 32 0x10B) = .next t :=
  ⟨⟨_, rfl⟩, ⟨_, rfl⟩, ⟨_, rfl⟩, ⟨_, rfl⟩, ⟨_, rfl⟩⟩

/-! ## One step of each command (V2-V9) -/

/-- V3, last row. -/
theorem test_initialise_faults_in_autobaud :
    (after (initialiseStep P0 { sInit with ph := .i1, mode := 0x8028#16, res := 0 })).map
      (fun t => (t.ph, t.fault, t.mode, t.res)) = some (.faulted, 8, 0x8028#16, 0) := by decide

/-- V3, fourth row, its first write: the enables are cleared and TXF is kept. -/
theorem test_initialise_disables_running_peripheral :
    (after (initialiseStep P0 { sInit with ph := .i1, txf := [0x041] })).map
      (fun t => (t.ph, t.mode, t.utxen, t.urxen, t.txf)) = some (.i2, 0x0008#16, false, false, [0x041]) := by decide

/-- V2: `clk / 4` is truncated first. -/
theorem test_serialSetup_truncates_clock :
    (after (serialSetupStep P0 true false 0b00#2 false { sInit with ph := .s3, opaL := 1, clk := 262143 })).map
      (fun t => (t.ph, t.d)) = some (.s4, 65534) := by decide

/-- V4's 8E2 trace at S.7. -/
theorem test_serialSetup_rewrites_fields :
    (after (serialSetupStep P0 true false 0b01#2 true { sInit with ph := .s7, mode := 0x0008#16, t := 8 })).map
      (fun t => (t.ph, t.mode)) = some (.s8, 0x000B#16) := by decide

/-- V2's boundary rows of the calculator. -/
theorem test_baudDiv_rows :
    baudDiv 80000000 115200 = (true, 173) ∧ baudDiv 80000000 9600 = (true, 2082) ∧
      baudDiv 262144 1 = (true, 65535) ∧ baudDiv 80000000 305 = (false, 65573) ∧ baudDiv 3 1 = (false, -1) ∧
      baudDiv 24 4 = (true, 1) ∧ baudDiv 4294967295 16384 = (true, 65535) := by decide

/-- V5: with the view `head` an error behind the head is not reported, and nothing is drained. -/
theorem test_errorGet_head_view :
    (after (errorGetStep P0 { sInit with ph := .g1, rxf := [⟨0x041, false, false⟩, ⟨0x042, true, false⟩] })).map
      (fun t => (t.ph, t.res, t.rxf.length)) = some (.idle, 0x00000001#32, 2) := by decide

/-- V5: with the view `any` it is. -/
theorem test_errorGet_any_view :
    (after (errorGetStep PAny { sInit with ph := .g1, rxf := [⟨0x041, false, false⟩, ⟨0x042, true, false⟩] })).map
      (fun t => (t.ph, t.e, t.t)) = some (.ec1, 4, 0x00001505#32) := by decide

/-- P2: the framing error of the unit at the head stops READ, and the unit stays. -/
theorem test_read_stops_on_error :
    (after (readStep P0 { sInit with
      ph := .r4, res := 0, k := 2, w := 1, opaL := 0x3000, opbL := 3, rxf := [⟨0x033, true, false⟩] })).map
      (fun t => (t.ph, t.res, t.k, t.rxf.length)) = some (.idle, 0x00000052#32, 2, 1) := by decide

/-- V6.8: a 9-bit unit in memory. -/
theorem test_read_stores_little_endian :
    (after (readStep P0 { sInit with ph := .r6, w := 2, opaL := 0x5000, opbL := 1, t := 0x1C3 })).map
      (fun t => (t.ph, t.k, t.mem)) = some (.r3, 1, [(0x5000, 0xC3#8), (0x5001, 0x01#8)]) := by decide

/-- V7.6: an odd buffer address in 9-bit mode. -/
theorem test_write_misaligned :
    (after (writeStep P0 { sInit with ph := .w4, res := 0, w := 2, opaL := 0x2001, opbL := 1 })).map
      (fun t => (t.ph, t.fault, t.txf, t.k)) = some (.faulted, 2, [], 0) := by decide

/-- V7.5: bits 15:9 of the second unit are dropped. -/
theorem test_write_keeps_nine_bits :
    (after (writeStep P0 { sInit with
      ph := .w5, mode := 0x800E#16, w := 2, k := 1, opbL := 2, t := 0xFEFF, txf := [0x1A5] })).map
      (fun t => (t.ph, t.k, t.txf)) = some (.w2, 2, [0x1A5, 0x0FF]) := by decide

/-- V8: `WRITE_BYTE 0x1A5` in 8N1. -/
theorem test_writeByte_keeps_eight_bits :
    (after (writeByteStep P0 { sInit with ph := .wb2, opaL := 0x1A5 })).map
      (fun t => (t.ph, t.res, t.txf)) = some (.idle, 1, [0x0A5]) := by decide

/-- V8: WB.1 waits while TXF is full. -/
theorem test_writeByte_waits :
    (after (writeByteStep P1 { State.reset with ph := .wb1, opaL := 0x41, txf := [0x042] })).map
      (fun t => (t.ph, t.txf)) = some (.wb1, [0x042]) := by decide

/-- V8: the unit with a framing error is returned and its flag goes with it. -/
theorem test_readByte_returns_errored_unit :
    (after (readByteStep P0 { sInit with ph := .rb1, rxf := [⟨0x041, true, false⟩] })).map
      (fun t => (t.res, t.rxf, ferr P0 t)) = some (0x00410001#32, [], false) := by decide

/-- V8: OERR is neither read nor cleared. -/
theorem test_readByte_under_overrun :
    (after (readByteStep P0 { sInit with ph := .rb1, oerr := true, rxf := [⟨0x061, false, false⟩] })).map
      (fun t => (t.res, t.oerr, t.rxf)) = some (0x00610001#32, true, []) := by decide

/-- V8, `TX_DEPTH = 1`. -/
theorem test_txReady_full :
    (after (predicateStep P1 (fun v => !v.getLsbD 9) { sInit with ph := .p1, txf := [0x041] })).map
      (fun t => (t.ph, t.res)) = some (.idle, 0x00000001#32) := by decide

/-- V8: errors are not looked at. -/
theorem test_rxReady_errored_unit :
    (after (predicateStep P0 (fun v => v.getLsbD 0) { sInit with ph := .p1, rxf := [⟨0x041, true, false⟩] })).map
      (fun t => (t.res, t.rxf.length)) = some (0x00010001#32, 1) := by decide

/-- V8: TXF empty, TSR holding a unit. -/
theorem test_txComplete_shifting :
    (after (predicateStep P0 (fun v => v.getLsbD 8)
      { sInit with ph := .p1, tsr := some ⟨0x041, 0b00#2, false, true, 173⟩ })).map (fun t => t.res) =
        some 0x00000001#32 := by decide

/-- V8: TX_COMPLETE after reset. -/
theorem test_txComplete_reset :
    (after (predicateStep P0 (fun v => v.getLsbD 8) { State.reset with ph := .p1 })).map (fun t => t.res) =
      some 0x00010001#32 := by decide

/-- V9. -/
theorem test_autobaudQuery_set :
    (after (autobaudQueryStep P0 { sInit with ph := .aq1, mode := 0x8028#16 })).map (fun t => t.res) =
      some 0x00010001#32 := by decide

/-- V9. -/
theorem test_autobaudSet_on :
    (after (autobaudSetStep P0 true { sInit with ph := .as1 })).map (fun t => (t.mode, t.res)) =
      some (0x8028#16, 1) := by decide

/-- V9: EN = 0 leaves the bit set. -/
theorem test_autobaudSet_off :
    (after (autobaudSetStep P0 false { sInit with ph := .as1, mode := 0x8028#16 })).map (fun t => (t.mode, t.res)) =
      some (0x8028#16, 1) := by decide

/-! ## The line side and the host (V10, V11) -/

/-- V11: 8N1 clears bit 8 and the parity error. -/
theorem test_line_receive_8n1 :
    (lineTurn P0 (.rx 0x1FF true true) sInit).rxf = [⟨0x0FF, true, false⟩] := by decide

/-- V11: a fifth unit is lost. -/
theorem test_line_overrun :
    (lineTurn P0 (.rx 0x050 false false) { sInit with rxf := List.replicate 4 ⟨0x041, false, false⟩ }).oerr = true := by
  decide

/-- V9. -/
theorem test_line_autobaud :
    let t := lineTurn P0 (.autobaud 0x0103) { sInit with mode := 0x8028#16 }
    (t.mode, t.brg) = (0x8008#16, 0x0103#16) := by decide

/-- P5, line 1: an illegal word. -/
theorem test_host_illegal_word :
    let t := hostTurn (.writePort offCmd 0x0000000E#32) sInit
    (t.cmd, t.res, statReg t, t.ph) = (0x0000000E#32, 0x00000063#32, 0, .idle) := by decide

/-- R112, R27: a poll with BUSY = 0 goes on; with BUSY = 1 it is made again. -/
theorem test_host_poll :
    pollBusy sInit = sInit ∧
      (pollBusy { sInit with ph := .r4 }).turns = [.sequencer, .host .pollBusy] := by decide

/-- P5, lines 5 and 1 as a host program: the run ends at the illegal word's acceptance, with no fault. -/
theorem test_host_program_end :
    (runEnd 7 (sInit.withProgram [.command (.read 0 4) [], .word 0x0000000E#32])).map
      (fun t => (t.ph, t.res, t.fault, t.k)) = some (.idle, 0x00000063#32, 0, 0) ∧
      runEnd 6 (sInit.withProgram [.command (.read 0 4) [], .word 0x0000000E#32]) = none := by decide

/-- R215: the first such state: the load scheduled after the last command is no part of the run. -/
theorem test_host_program_first_state :
    (runEnd 9 ({ sInit with txf := [0x041] }.withProgram [.word 0x0000000E#32, .events [.load]])).map
      (fun t => (t.res, t.txf)) = some (0x00000063#32, [0x041]) := by decide

/-! ## Reset and reads of the registers (R60, R80, section 0) -/

theorem test_reset_images :
    staImage P0 State.reset false = 0x00000100#32 ∧ staImage P0 sInit false = 0x00001500#32 ∧
      modeImage sInit = 0x00008008#32 ∧ brgImage sInit = 0x000000AD#32 := by decide

/-! ## Witnesses: states that meet the obligations' hypotheses -/

/-- A WRITE of three units in its second pass, its first unit in TXF (V7.3). -/
def sWriting : State :=
  { sInit with
    ph := .w3, cmd := 4, cmdL := 4, opaL := 0x2000, opbL := 3, k := 1, w := 1, res := 0, txf := [0x041]
    mem := [(0x2000, 0x41#8), (0x2001, 0x42#8), (0x2002, 0x43#8)] }

/-- INITIALIZE accepted with ABAUD = 1 and ON = 0 (V3, fifth row). -/
def sAutobaudOff : State := { State.reset with ph := .i1, mode := 0x0020#16 }

/-- A unit in TSR, FAULT set by a second command (V10). -/
def sFaulted : State :=
  { sInit with
    ph := .faulted, cmd := 3, cmdL := 3, opaL := 0x1000, opbL := 1, w := 1, res := 0, fault := 1
    tsr := some ⟨0x041, 0b00#2, false, true, 173⟩ }

theorem sWriting_inv : Inv sWriting where
  mem := by decide
  rxf := Nat.zero_le _
  txf := Nat.le_add_left 1 _
  phase := .inr (.inr ⟨.write, by decide⟩)
  faulted := by decide
  faultBits := by decide
  result := by decide
  off := by decide
  readMode := by decide
  room := by decide
  width := by decide
  baud := by decide
  countStart := by decide
  countClear := by decide
  countPass := by decide
  countTest := by decide
  noBreak := by decide
  snap := by decide
  staOther := by decide
  modeOther := by decide

theorem sAutobaudOff_inv : Inv sAutobaudOff where
  mem := by decide
  rxf := Nat.zero_le _
  txf := Nat.zero_le _
  phase := .inr (.inr ⟨.initialise, by decide⟩)
  faulted := by decide
  faultBits := by decide
  result := by decide
  off := by decide
  readMode := by decide
  room := by decide
  width := by decide
  baud := by decide
  countStart := by decide
  countClear := by decide
  countPass := by decide
  countTest := by decide
  noBreak := by decide
  snap := by decide
  staOther := by decide
  modeOther := by decide

/-- WRITE_BYTE at its second label (V8, first row). -/
def sSending : State := { sInit with ph := .wb2, cmd := 5, cmdL := 5, opaL := 0x1A5, res := 0 }

theorem sSending_inv : Inv sSending where
  mem := by decide
  rxf := Nat.zero_le _
  txf := Nat.zero_le _
  phase := .inr (.inr ⟨.writeByte, by decide⟩)
  faulted := by decide
  faultBits := by decide
  result := by decide
  off := by decide
  readMode := by decide
  room := fun _ => Nat.zero_lt_succ _
  width := by decide
  baud := by decide
  countStart := by decide
  countClear := by decide
  countPass := by decide
  countTest := by decide
  noBreak := by decide
  snap := by decide
  staOther := by decide
  modeOther := by decide

theorem test_wit_StepKeepsInvariant : ∃ s t, Inv s ∧ step s = .next t := ⟨sWriting, _, sWriting_inv, rfl⟩

theorem test_wit_InvariantStatesAlwaysStep : ∃ s, Inv s ∧ s.ph = .w3 := ⟨sWriting, sWriting_inv, rfl⟩

theorem test_wit_StepKeepsMemoryCanonical :
    ∃ s t, s.mem ≠ [] ∧ Memory.wf s.mem ∧ step s = .next t := ⟨sWriting, _, by decide, by decide, rfl⟩

theorem test_wit_StepRunsLatchedCommand :
    (sWriting.ph ≠ .idle ∧ sWriting.ph ≠ .faulted ∧ decode sWriting.cmdL = .command .write ∧ sWriting.turns = []) ∧
      { sWriting with turns := [.sequencer, .line .load] }.turns = .sequencer :: [.line .load] ∧
      sInit.ph = .idle ∧ sFaulted.ph = .faulted := by decide

theorem test_wit_ResetRestoresTableAndAloneClearsFault :
    ∃ t, Turn.line .done ≠ .reset ∧ takeTurn (.line .done) sFaulted = .next t ∧ sFaulted.fault.getLsbD 0 = true :=
  ⟨_, by decide, rfl, by decide⟩

theorem test_wit_LineOutOnlyGrows :
    ∃ s t, s.lineOut ≠ [] ∧ step s = .next t :=
  ⟨{ sWriting with lineOut := [⟨0x041, 0b00#2, false, true, 173⟩] }, _, by decide, rfl⟩

/-- The host's branch, and the store of R.6 for parameters that admit it. -/
theorem test_wit_MemoryChangesOnlyByHostOrReadStore :
    (∃ t, takeTurn (.host (.writeMem 0x1002#32 0x99#8)) sInit = .next t ∧
      Memory.read t.mem 0x1002 ≠ Memory.read sInit.mem 0x1002) ∧
    (after (readStep P0 { sInit with ph := .r6, cmdL := 3, w := 1, opaL := 0x1000, opbL := 1, t := 0x41 })).map
      (fun t => Memory.read t.mem 0x1000) = some 0x41#8 := ⟨⟨_, rfl, by decide⟩, by decide⟩

/-- S.8 and reset change the divisor. -/
theorem test_wit_DivisorChangesOnlyByItsWriters :
    (∃ t, takeTurn .sequencer { sInit with ph := .s8, cmdL := 0x101#32, mode := 0x0008#16, d := 1249 } = .next t ∧
      t.brg ≠ sInit.brg) ∧
    ∃ t, takeTurn .reset sInit = .next t ∧ t.brg ≠ sInit.brg :=
  ⟨⟨_, rfl, by decide⟩, ⟨_, rfl, by decide⟩⟩

/-- INITIALIZE with ON = 0, and reset with the bit set. -/
theorem test_wit_AutobaudBitLeavesOnlyByItsThreeWays :
    (∃ t, Inv sAutobaudOff ∧ takeTurn .reset sAutobaudOff = .next t ∧ modeAbaud sAutobaudOff.mode = true ∧
      modeAbaud t.mode = false) ∧
    (after (initialiseStep P0 sAutobaudOff)).map (fun t => modeAbaud t.mode) = some false :=
  ⟨⟨_, sAutobaudOff_inv, rfl, by decide, by decide⟩, by decide⟩

theorem test_wit_TransmittedUnitsStayInOrder :
    (∃ t, takeTurn (.line .done) sFaulted = .next t ∧ t.lineOut ≠ [] ∧ transmitted t = transmitted sFaulted) ∧
    (after (writeStep P0 { sWriting with ph := .w5, t := 0x42 })).map transmitted =
      some (transmitted sWriting ++ [0x042]) := ⟨⟨_, rfl, by decide, by decide⟩, by decide⟩

/-- Sequencer, load and done in rotation: fair, whatever the start. -/
theorem test_wit_FairScheduleEmptiesShiftRegister :
    Fair (fun n => if n % 3 = 0 then .sequencer else if n % 3 = 1 then .line .load else .line .done) sFaulted where
  sequencer n _ := ⟨3 * n, by omega, by dsimp only; rw [if_pos (by omega)]⟩
  load n _ := ⟨3 * n + 1, by omega, by dsimp only; rw [if_neg (by omega), if_pos (by omega)]⟩
  done n _ := ⟨3 * n + 2, by omega, by dsimp only; rw [if_neg (by omega), if_neg (by omega)]⟩

theorem test_wit_DecodeEncodeAgree :
    decode 0x1F01#32 = .illegal .reservedParity ∧ decode 0x1E01#32 = .command (.serialSetup false true 0b11#2 true) ∧
      (Instr.serialSetup false true 0b11#2 true).wellFormed = true := by decide

theorem test_wit_IllegalWordsAreExactlyTheListed :
    decode 0x00000D01#32 = .illegal .reservedParity ∧ sInit.ph = .idle ∧ { sInit with ph := .s1 }.ph = .s1 ∧
      ((0b01#2 : BitVec 2) = 0b01#2 ∨ (0b01#2 : BitVec 2) = 0b10#2) := by decide

theorem test_wit_CommandWriteInIdleIsAcceptance :
    sInit.ph = .idle ∧ decode 0xE#32 = .illegal .reservedOpcode ∧ decode 3#32 = .command .read ∧
      decode 7#32 = .command .txReady := by decide

theorem test_wit_CommandWriteWhileBusyFaults :
    sWriting.ph ≠ .idle ∧ sWriting.ph ≠ .faulted ∧ sFaulted.ph = .faulted := by decide

theorem test_wit_HostPortReadsAndWrites :
    (0x1C : Nat) ∉ [0x00, 0x04, 0x08, 0x0C, 0x10, 0x14, 0x18] ∧ (0x0C : Nat) ∉ [0x00, 0x04, 0x08] := by decide

/-- V10: the READ of four units at 0x1000 owns 0x1003 and not 0x1004 once its width is sampled, and 0x1007 but not
0x1008 before. -/
theorem test_wit_HostWriteIntoOwnedBufferFaults :
    let s : State := { sInit with ph := .r4, cmdL := 3, opaL := 0x1000, opbL := 4, w := 1, k := 1, res := 0 }
    let early : State := { s with ph := .r2, w := 0 }
    ownedByTransfer s 0x1003 = true ∧ ownedByTransfer s 0x1004 = false ∧ ownedByTransfer early 0x1007 = true ∧
      ownedByTransfer early 0x1008 = false := by decide

/-- Two commands in a row, an event while the first runs and one after it. -/
theorem test_wit_PollingHostNeverFaultsBusy :
    sInit.ph = .idle ∧ sInit.fault.getLsbD 0 = false ∧
      ∃ t, runSteps step 2 (sInit.withProgram
        [.command (.read 0x3000 1) [.sequencer, .event (.rx 0x031 false false)], .events [.load], .command .errorGet []]) =
          .next t := ⟨rfl, rfl, _, rfl⟩

theorem test_wit_BufferWriteThenRead :
    (∃ t, Memory.wf sWriting.mem ∧ memWrite P0 0x2000 2 0x01A5#16 sWriting = .ok t) ∧
      ∃ t, memWrite P0 0xFFFFFFFF 1 0x0070#16 sWriting = .ok t := ⟨⟨_, by decide, rfl⟩, ⟨_, rfl⟩⟩

/-- One access for each outcome, at the top of the address space. -/
theorem test_wit_BufferAccessChecksInOrder :
    memCheck P0 0xFFFFFFFF 2 = some .misaligned ∧ memCheck P0 0xFFFFFFFE 2 = none ∧
      memCheck P0 0xFFFFFFFF 1 = none ∧ memCheck P0 0x100000000 1 = some .memRefused ∧
      memCheck P0 0x100000000 2 = some .memRefused ∧
      memCheck { P0 with memAdmit := fun a _ => decide (a < 0x1001) } 0x1001 1 = some .memRefused := by decide

theorem test_wit_StatusWritesStoreOnlyWritableBits :
    ∃ t, regWrite P0 .sta 0xFFFFFFFD#32 { sInit with oerr := true, rxf := [⟨0x041, false, false⟩] } = .ok t ∧
      t.oerr = false ∧ t.staHi = 0xFFF#12 := ⟨_, rfl, by decide⟩

/-- A state for each clause. -/
theorem test_wit_ModeAndDivisorWriteChecks :
    (modeOn (0x8028#16) = true ∧ modeAbaud (0x8028#16) = true ∧ modeAbaud (0x0008#16) = false) ∧
      (modeOn sInit.mode = true ∧ modeAbaud sInit.mode = false ∧ modeOn (0x800E#16) = true ∧
        modePdsel (0x800E#16) ≠ modePdsel sInit.mode) ∧ modeOn State.reset.mode = false := by decide

theorem test_wit_TransmitRegisterWriteAppendsOrFaults :
    { sInit with txf := List.replicate 4 0x041 }.txf.length = P0.txDepth ∧
      { sInit with txf := List.replicate 3 0x041 }.txf.length ≠ P0.txDepth := by decide

/-- The disabling write with each choice of DISABLE_FLUSH, and a write that turns the peripheral on. -/
theorem test_wit_DisableClearsEnablesAndMayFlush :
    modeOn sWriting.mode = true ∧
      (∃ t, regWrite { P0 with disableFlush := .keep } .mode initMode sWriting = .ok t ∧ modeOn t.mode = false ∧
        t.txf = [0x041]) ∧
      (∃ t, regWrite { P0 with disableFlush := .flush } .modeClr mOn sWriting = .ok t ∧ modeOn t.mode = false ∧
        t.txf = []) ∧
      ∃ t, modeOn State.reset.mode = false ∧ regWrite P0 .modeSet mOn State.reset = .ok t ∧ modeOn t.mode = true :=
  ⟨by decide, ⟨_, rfl, by decide, by decide⟩, ⟨_, rfl, by decide, by decide⟩, ⟨_, by decide, rfl, by decide⟩⟩

/-- The overrun clear with each choice of OERR_CLEAR_FLUSH. -/
theorem test_wit_OverrunClearMayFlushAndResumesReception :
    let s : State := { sInit with oerr := true, rxf := [⟨0x061, false, false⟩] }
    s.oerr = true ∧
      (∃ t, regWrite { P0 with oerrClearFlush := .keep } .staClr sOerr s = .ok t ∧ t.oerr = false ∧
        modeOn t.mode = modeOn s.mode ∧ t.rxf.length = 1) ∧
      ∃ t, regWrite { P0 with oerrClearFlush := .flush } .staClr sOerr s = .ok t ∧ t.oerr = false ∧
        modeOn t.mode = true ∧ t.urxen = true ∧ t.rxf = [] :=
  ⟨by decide, ⟨_, rfl, by decide, by decide, by decide⟩, ⟨_, rfl, by decide, by decide, by decide, by decide⟩⟩

theorem test_wit_ReceiveEventFillsFifoOrOverruns :
    modeOn sInit.mode = true ∧ sInit.urxen = true ∧ sInit.oerr = false ∧ sInit.rxf.length < P0.rxDepth ∧
      ¬{ sInit with rxf := List.replicate 4 ⟨0x041, false, false⟩ }.rxf.length < P0.rxDepth := by decide

theorem test_wit_TransmitLoadRecordsConfiguration :
    (sWriting.txf = 0x041 :: [] ∧ modeOn sWriting.mode = true ∧ sWriting.utxen = true ∧ sWriting.tsr = none) ∧
      ¬(modeOn State.reset.mode = true ∧ State.reset.utxen = true ∧ State.reset.tsr = none ∧
        State.reset.txf ≠ []) := by decide

theorem test_wit_TransmitDoneAppendsToLine :
    sFaulted.tsr = some ⟨0x041, 0b00#2, false, true, 173⟩ ∧ sInit.tsr = none := by decide

theorem test_wit_AutobaudCompletionSetsDivisorClearsBit :
    (P0.autobaudHw = true ∧ modeOn (0x8028#16) = true ∧ modeAbaud (0x8028#16) = true) ∧
      ¬(P0.autobaudHw = true ∧ modeOn sInit.mode = true ∧ modeAbaud sInit.mode = true) := by decide

/-- INITIALIZE's first step with each choice of DISABLE_FLUSH, the machine's own being open. -/
theorem test_initialise_flush_choices :
    let s : State := { sInit with ph := .i1, txf := [0x041] }
    (after (initialiseStep { P0 with disableFlush := .keep } s)).map State.txf = some [0x041] ∧
      (after (initialiseStep { P0 with disableFlush := .flush } s)).map State.txf = some [] := by decide

/-- INITIALIZE from reset, on a running peripheral, and with autobaud in progress. -/
theorem test_wit_InitializeProgramsDefaultOrFaults :
    let off : State := { State.reset with ph := .i1 }
    let on : State := { sInit with ph := .i1, res := 0 }
    let detecting : State := { on with mode := 0x8028#16 }
    (off.ph = .i1 ∧ ¬(modeOn off.mode = true ∧ modeAbaud off.mode = true)) ∧
      (on.ph = .i1 ∧ modeOn on.mode = true ∧ ¬(modeOn on.mode = true ∧ modeAbaud on.mode = true)) ∧
      detecting.ph = .i1 ∧ modeOn detecting.mode = true ∧ modeAbaud detecting.mode = true := by decide

/-- The null configuration, a zero baud rate, the excluded pair, a zero and a nonzero clock operand. -/
theorem test_wit_SetupValidationInOrder :
    let s : State := { sInit with ph := .s1, opaL := 9600, opbL := 48000000 }
    s.ph = .s1 ∧ (Instr.serialSetup false true 0b11#2 true).wellFormed = true ∧
      (Instr.serialSetup true true 0b01#2 false).wellFormed = true ∧
      (Instr.serialSetup true false 0b01#2 true).wellFormed = true ∧ s.opaL ≠ 0 ∧
      { s with opaL := 0 }.opaL = 0 ∧ { s with opbL := 0 }.opbL = 0 := by decide

theorem test_wit_SetupResolvesClockAndDivisor :
    let s : State := { sInit with ph := .s3, opaL := 1, clk := 262144 }
    (Instr.serialSetup true false 0b00#2 false).wellFormed = true ∧ { s with ph := .s2 }.ph = .s2 ∧ s.ph = .s3 ∧
      s.opaL ≠ 0 ∧ (262144 / 4 + 1 / 2) / 1 = 65536 ∧ (262148 / 4 + 1 / 2) / 1 = 65537 ∧ (3 / 4 + 1 / 2) / 1 = 0 := by
  decide

theorem test_wit_SetupReprogramsAndPreservesEnables :
    { sInit with ph := .s4, d := 1249 }.ph = .s4 ∧ { State.reset with ph := .s4, d := 173 }.ph = .s4 ∧
      (0b10#2 : BitVec 2) ≠ 0b11#2 := by decide

theorem test_wit_DivisorIsRoundedToNearest :
    4294967295 < 2 ^ 32 ∧ 1 ≤ 16384 ∧ (baudDiv 3 1).2 = -1 ∧ (baudDiv 4 1).2 = 0 := by decide

theorem test_wit_ConfigurationReadsBack :
    (0b00#2 : BitVec 2) ≠ 0b11#2 ∧ lineConfigOf (0x000B#16) = ⟨8, .even, 2⟩ ∧ lineConfigOf (0x000E#16) = ⟨9, .none, 1⟩ := by
  decide

/-- An empty receive FIFO shows no framing or parity error, whatever the view. -/
theorem test_wit_ErrorGetWithoutErrorLeavesPeripheral :
    let s : State := { sInit with ph := .g1 }
    s.ph = .g1 ∧ s.oerr = false ∧ ferr Config.params s = false ∧ perr Config.params s = false := by
  refine ⟨rfl, rfl, ?_, ?_⟩
  · unfold ferr; cases Config.params.errView <;> rfl
  · unfold perr; cases Config.params.errView <;> rfl

/-- An overrun, and a framing error at the head, which both views show. -/
theorem test_wit_ErrorGetReportsThenClears :
    let s : State := { sInit with ph := .g1, rxf := [⟨0x055, true, false⟩] }
    { s with oerr := true }.oerr = true ∧ s.ph = .g1 ∧ ferr Config.params s = true := by
  refine ⟨rfl, rfl, ?_⟩
  unfold ferr; cases Config.params.errView <;> rfl

theorem test_wit_ErrorClearSteps :
    let s : State := { sInit with ph := .ec1, oerr := true, rxf := [⟨0x055, true, false⟩] }
    s.ph = .ec1 ∧ { s with ph := .ec2 }.ph = .ec2 ∧ { s with ph := .ec3 }.ph = .ec3 ∧ { s with ph := .ec4 }.ph = .ec4 ∧
      ((Instr.errorGet = .errorGet ∧ Phase.g2 = .g2) ∨ (Instr.errorGet = .read ∧ Phase.g2 = .r2)) := by decide

theorem test_wit_ReadStartsAndFinishes :
    let s : State := { sInit with ph := .r0, cmdL := 3, opaL := 0x1000, opbL := 2 }
    s.ph = .r0 ∧ s.opaL ≠ 0 ∧ { s with ph := .r1 }.ph = .r1 ∧ { s with ph := .r2 }.ph = .r2 ∧
      { s with ph := .r3, k := 2 }.k = s.opbL ∧ { s with ph := .r3 }.k ≠ s.opbL := by decide

theorem test_wit_ReadPollsErrorBeforeData :
    let s : State := { sInit with ph := .r4, oerr := true, rxf := [⟨0x061, false, false⟩] }
    s.ph = .r4 ∧ { s with ph := .r5 }.ph = .r5 ∧ s.rxf = ⟨0x061, false, false⟩ :: [] := by decide

theorem test_wit_ReadStoresUnitOrFaults :
    let s : State := { sInit with ph := .r6, opaL := 0x5001, opbL := 1, w := 2, t := 0x1C3 }
    s.ph = .r6 ∧ s.w = 2 ∧ (s.opaL.toNat + s.w.toNat * s.k.toNat) % 2 = 1 ∧ { s with w := 1 }.w = 1 := by decide

/-- Two units buffered for a READ of two, one more behind them. -/
theorem test_wit_ReadFillsBufferFromFifo :
    let s : State := { sInit with
      ph := .r3, cmdL := 3, opaL := 0x1000, opbL := 2, w := 1, res := 0
      rxf := [⟨0x041, false, false⟩, ⟨0x042, false, false⟩, ⟨0x043, false, false⟩] }
    s.ph = .r3 ∧ s.k = 0 ∧ s.w = unitSize s.mode ∧ Memory.wf s.mem ∧ s.oerr = false ∧
      s.rxf = [⟨0x041, false, false⟩, ⟨0x042, false, false⟩] ++ [⟨0x043, false, false⟩] ∧ (2 : Nat) = s.opbL.toNat ∧
      (∀ u ∈ s.rxf, u.ferr = false ∧ u.perr = false) ∧
      ∀ i, i < 2 → memCheck P0 (s.opaL.toNat + s.w.toNat * i) s.w.toNat = none := by decide

theorem test_wit_ReadFrame :
    ∃ t, exec .read { sInit with ph := .r4, cmdL := 3, opaL := 0x1000, opbL := 2, w := 1 } = .next t := ⟨_, rfl⟩

theorem test_wit_WriteStartsPollsAndFinishes :
    let s : State := { sInit with ph := .w0, cmdL := 4, opaL := 0x2000, opbL := 3 }
    s.ph = .w0 ∧ s.opaL ≠ 0 ∧ { s with ph := .w1 }.ph = .w1 ∧ { s with ph := .w2, k := 3 }.k = s.opbL ∧
      { s with ph := .w2 }.k ≠ s.opbL ∧ { s with ph := .w3 }.ph = .w3 := by decide

/-- A full transmit FIFO, for the polls' waiting branch. -/
theorem test_wit_full_transmit_fifo :
    { sInit with txf := List.replicate Config.params.txDepth 0x041 }.txf.length = Config.params.txDepth :=
  List.length_replicate

theorem test_wit_WriteFetchesUnitOrFaults :
    let s : State := { sWriting with ph := .w4, w := 2, opaL := 0x2001 }
    s.ph = .w4 ∧ s.w = 2 ∧ { sWriting with ph := .w4 }.w = 1 := by decide

theorem test_wit_WriteSendsUnit :
    { sInit with ph := .w5, t := 0x42 }.ph = .w5 ∧ sInit.txf.length < Config.params.txDepth :=
  ⟨rfl, Nat.zero_lt_succ _⟩

/-- V7.3's start, at the buffer's first label. -/
theorem test_wit_WriteSendsWholeBuffer :
    let s : State := { sWriting with ph := .w0, k := 0, w := 0, txf := [] }
    s.ph = .w0 ∧ s.k = 0 ∧ s.opaL ≠ 0 ∧ s.txf.length + s.opbL.toNat ≤ P0.txDepth ∧
      ∀ i, i < s.opbL.toNat → memCheck P0 (s.opaL.toNat + (unitSize s.mode).toNat * i) (unitSize s.mode).toNat = none := by
  decide

theorem test_wit_WriteFrame : ∃ t, exec .write sWriting = .next t := ⟨_, rfl⟩

theorem test_wit_WriteByteWaitsThenSends :
    { sInit with ph := .wb1 }.ph = .wb1 ∧ sSending.ph = .wb2 ∧ Inv sSending := ⟨rfl, rfl, sSending_inv⟩

theorem test_wit_ReadByteReturnsHeadUnchecked :
    let s : State := { sInit with ph := .rb1, rxf := [⟨0x041, true, false⟩] }
    s.ph = .rb1 ∧ s.rxf = ⟨0x041, true, false⟩ :: [] ∧ { s with rxf := [] }.rxf = [] := by decide

theorem test_wit_predicates_and_autobaud :
    { sInit with ph := .p1 }.ph = .p1 ∧ { sInit with ph := .aq1 }.ph = .aq1 ∧ { sInit with ph := .as1 }.ph = .as1 := by
  decide

end Sys2Proof.Tests
end

section
/-! PROOF. The reset table of 10_state.md rule R60: STA's flags and the registers' images at power-on, and what the
reset signal gives. -/

namespace Sys2Proof.Machine

section
variable (P : Params)

@[simp] theorem statReg_reset : statReg State.reset = 0 := rfl
@[simp] theorem modeImage_reset : modeImage State.reset = 0 := rfl
@[simp] theorem brgImage_reset : brgImage State.reset = 0 := rfl
@[simp] theorem urxda_reset : urxda State.reset = false := rfl
@[simp] theorem trmt_reset : trmt State.reset = true := rfl

@[simp] theorem ferr_reset : ferr P State.reset = false := by
  unfold ferr; cases P.errView <;> rfl

@[simp] theorem perr_reset : perr P State.reset = false := by
  unfold perr; cases P.errView <;> rfl

/-- An empty transmit FIFO is not full, since TX_DEPTH is at least 1 (R53). -/
@[simp] theorem utxbf_reset : utxbf P State.reset = false :=
  beq_false_of_ne (Nat.ne_of_lt P.txDepth_pos)

/-- Of STA's bits only TRMT and the drawn RIDLE can be 1 at power-on (R60, R46). -/
theorem staImage_reset (ridle : Bool) :
    staImage P State.reset ridle = if ridle then 0x00000110#32 else 0x00000100#32 := by
  unfold staImage
  rw [urxda_reset, ferr_reset, perr_reset, trmt_reset, utxbf_reset]
  cases ridle <;> rfl

end

/-- The reset signal's turn is a step from every state (R220). -/
@[simp] theorem takeTurn_reset (s : State) : takeTurn .reset s = .next (resetSignal s) := rfl

end Sys2Proof.Machine

open Sys2Proof.Machine

/-- Settles O1: each row of R60's table but STA's is the field of `State.reset` itself or an image of it, and STA's
is `staImage_reset`; a reset during a run is `resetSignal`, which is `State.reset` with memory, LINE_OUT and the
model's own two fields kept. -/
theorem powerOnAndResetGiveTheTable : Obligations.PowerOnAndResetGiveTheTable := by
  unfold Obligations.PowerOnAndResetGiveTheTable
  refine ⟨?powerOn, ?duringARun⟩
  case powerOn =>
    exact ⟨rfl, rfl, rfl, rfl, rfl, statReg_reset, rfl, rfl, rfl, rfl, rfl, rfl, rfl, rfl, rfl, rfl, rfl, rfl,
      modeImage_reset, brgImage_reset, rfl, rfl, rfl, rfl, staImage_reset⟩
  case duringARun =>
    exact fun s => ⟨_, takeTurn_reset s, rfl⟩

end

section
/-! PROOF. Buffer accesses and the effects of register writes (20_memory.md rules R75, R76, R85, R86): what an access
answers by the outcome of its checks, what a performed register write is, and what a flush parameter makes of the
effects. -/

namespace Sys2Proof.Machine

section
variable (P : Params) (s : State)

/-! ## Buffer accesses (R73-R76) -/

section
variable (addr n : Nat)

/-- Alignment is checked first, whatever the memory admits (R75). -/
theorem memCheck_misaligned (h : n = 2 ∧ addr % 2 = 1) : memCheck P addr n = some .misaligned := by
  unfold memCheck; rw [if_pos h]

/-- An aligned access beyond the address space or not admitted is refused (R76). -/
theorem memCheck_refused (hal : ¬(n = 2 ∧ addr % 2 = 1))
    (h : ¬(addr + n - 1 ≤ 2 ^ 32 - 1 ∧ P.memAdmit addr n = true)) : memCheck P addr n = some .memRefused := by
  unfold memCheck; rw [if_neg hal, if_neg h]

variable {addr n}

theorem memRead_error {kind : FaultKind} (h : memCheck P addr n = some kind) :
    memRead P addr n s = .error kind := by
  unfold memRead; rw [h]

theorem memWrite_error {kind : FaultKind} (h : memCheck P addr n = some kind) (v : Half) :
    memWrite P addr n v s = .error kind := by
  unfold memWrite; rw [h]

theorem memRead_performed (h : memCheck P addr n = none) : ∃ u, memRead P addr n s = .ok u := by
  unfold memRead; rw [h]; exact ⟨_, rfl⟩

theorem memWrite_performed (h : memCheck P addr n = none) (v : Half) : ∃ t, memWrite P addr n v s = .ok t := by
  unfold memWrite; rw [h]; exact ⟨_, rfl⟩

end

/-! ## The disable effect (R85) -/

/-- What the disable effect can move: the enables, which become 0, and what a flush empties. -/
theorem disableEffect_frame : disableEffect P s = { s with
    utxen := false, urxen := false, utxbrk := false
    rxf := (disableEffect P s).rxf, oerr := (disableEffect P s).oerr, txf := (disableEffect P s).txf
    tsr := (disableEffect P s).tsr, draws := (disableEffect P s).draws } := by
  unfold disableEffect; split <;> rfl

theorem disableEffect_of_keep (h : P.disableFlush = .keep) :
    disableEffect P s = drawn { s with utxen := false, urxen := false, utxbrk := false } := by
  unfold disableEffect; rw [h]; rfl

theorem disableEffect_of_flush (h : P.disableFlush = .flush) :
    disableEffect P s = drawn { s with
      utxen := false, urxen := false, utxbrk := false, rxf := [], oerr := false, txf := [], tsr := none } := by
  unfold disableEffect; rw [h]; rfl

/-! ## The OERR-clear effect (R86) -/

theorem oerrClearEffect_of_keep (h : P.oerrClearFlush = .keep) : oerrClearEffect P s = drawn s := by
  unfold oerrClearEffect; rw [h]; rfl

theorem oerrClearEffect_of_flush (h : P.oerrClearFlush = .flush) :
    oerrClearEffect P s = drawn { s with rxf := [] } := by
  unfold oerrClearEffect; rw [h]; rfl

theorem writeSta_rxf_of_keep (c : Word) (h : P.oerrClearFlush = .keep) : (writeSta P c s).rxf = s.rxf := by
  unfold writeSta
  dsimp only
  split
  · rw [oerrClearEffect_of_keep P _ h]; rfl
  · rfl

theorem writeSta_rxf_of_flush (c : Word) (h : P.oerrClearFlush = .flush) (hs : s.oerr = true)
    (ht : (writeSta P c s).oerr = false) : (writeSta P c s).rxf = [] := by
  rw [writeSta_oerr] at ht
  unfold writeSta
  dsimp only
  rw [if_pos ⟨hs, ht⟩, oerrClearEffect_of_flush P _ h]
  rfl

/-! ## Register writes (R81-R86) -/

/-- A performed MODE write has the disable effect exactly when it turns ON off (R85). -/
theorem writeMode_ok {new : Half} {t : State} (h : writeMode P new s = .ok t) :
    t = if modeOn s.mode = true ∧ modeOn new = false then disableEffect P { s with mode := new }
      else { s with mode := new } := by
  unfold writeMode at h
  split at h
  · cases h
  · exact (Except.ok.inj h).symm

/-- What a performed register write is: a write of MODE's or STA's image, or what BRG, TXREG and RXREG take. -/
theorem regWrite_cases {r : Reg} {v : Word} {t : State} (h : regWrite P r v s = .ok t) :
    (∃ new, writeMode P new s = .ok t) ∨ (∃ c, t = writeSta P c s) ∨
      (r = .brg ∧ modeOn s.mode = false ∧ t = { s with brg := v.setWidth 16 }) ∨
      (r = .txreg ∧ s.txf.length ≠ P.txDepth ∧ t = { s with txf := s.txf ++ [keptUnit s.mode v] }) ∨
      (r = .rxreg ∧ t = s) := by
  cases r with
  | mode | modeClr | modeSet | modeInv => exact .inl ⟨_, h⟩
  | sta | staClr | staSet | staInv => exact .inr (.inl ⟨_, (Except.ok.inj h).symm⟩)
  | brg =>
    simp only [regWrite, writeBrg] at h
    split at h
    · cases h
    · next hoff => exact .inr (.inr (.inl ⟨rfl, by simpa using hoff, (Except.ok.inj h).symm⟩))
  | txreg =>
    simp only [regWrite, writeTxreg] at h
    split at h
    · cases h
    · next hroom => exact .inr (.inr (.inr (.inl ⟨rfl, hroom, (Except.ok.inj h).symm⟩)))
  | rxreg => exact .inr (.inr (.inr (.inr ⟨rfl, (Except.ok.inj h).symm⟩)))

/-- A register write that changes ON is a MODE write of the image it leaves: with the disable effect when it turns ON
off, and with nothing else when it turns ON on. -/
theorem regWrite_changes_on {r : Reg} {v : Word} {t : State} (h : regWrite P r v s = .ok t)
    (hon : modeOn t.mode ≠ modeOn s.mode) :
    t = if modeOn s.mode = true then disableEffect P { s with mode := t.mode } else { s with mode := t.mode } := by
  obtain ⟨new, h⟩ | ⟨c, rfl⟩ | ⟨-, -, rfl⟩ | ⟨-, -, rfl⟩ | ⟨-, rfl⟩ := regWrite_cases P s h
  · have ht := writeMode_ok P s h
    have hmode : t.mode = new := by rw [ht]; split <;> simp
    rw [hmode] at hon ⊢
    have hoff (hs : modeOn s.mode = true) : modeOn new = false := by simpa [hs] using hon
    exact ht.trans (if_congr (and_iff_left_of_imp hoff) rfl rfl)
  · exact absurd (by simp) hon
  · exact absurd rfl hon
  · exact absurd rfl hon
  · exact absurd rfl hon

/-- A register write that clears OERR and leaves ON is a write of STA's image: of the others only the disable effect
moves OERR. -/
theorem regWrite_clears_oerr {r : Reg} {v : Word} {t : State} (h : regWrite P r v s = .ok t)
    (hs : s.oerr = true) (ht : t.oerr = false) (hon : modeOn t.mode = modeOn s.mode) : ∃ c, t = writeSta P c s := by
  have moved : t.oerr ≠ s.oerr := by simp [hs, ht]
  obtain ⟨new, h⟩ | hsta | ⟨-, -, rfl⟩ | ⟨-, -, rfl⟩ | ⟨-, rfl⟩ := regWrite_cases P s h
  · obtain rfl | ⟨hson, hnew, rfl⟩ := writeMode_cases P s new t h
    · exact absurd rfl moved
    · simp [hson, hnew] at hon
  · exact hsta
  · exact absurd rfl moved
  · exact absurd rfl moved
  · exact absurd rfl moved

@[simp] theorem lineEnabled_rx (data : Unit9) (fe pe : Bool) :
    lineEnabled P (.rx data fe pe) s = (modeOn s.mode && s.urxen && !s.oerr) := rfl

end

end Sys2Proof.Machine

open Sys2Proof.Machine

/-- Settles O23: the access answers what `memCheck` answers, in each of the three branches of its checks. -/
theorem bufferAccessChecksInOrder : Obligations.BufferAccessChecksInOrder := by
  unfold Obligations.BufferAccessChecksInOrder
  intro P s addr n v _
  split_ifs with hodd hadm
  · have hc := memCheck_misaligned P addr n hodd
    exact ⟨memRead_error P s hc, memWrite_error P s hc v⟩
  · have hc := memCheck_none P addr n (by omega) hadm.1 hadm.2
    exact ⟨memRead_performed P s hc, memWrite_performed P s hc v⟩
  · have hc := memCheck_refused P addr n hodd hadm
    exact ⟨memRead_error P s hc, memWrite_error P s hc v⟩

/-- Settles O28: by `regWrite_changes_on` a write that turns ON off is the disable effect on the new image, and one
that turns ON on moves MODE only. -/
theorem disableClearsEnablesAndMayFlush : Obligations.DisableClearsEnablesAndMayFlush := by
  unfold Obligations.DisableClearsEnablesAndMayFlush
  intro P r v s t h
  refine ⟨fun hs ht => ?turnedOff, fun hs ht => ?turnedOn⟩
  case turnedOff =>
    have hoff : t = disableEffect P { s with mode := t.mode } := by
      simpa [hs] using regWrite_changes_on P s h (by simp [hs, ht])
    generalize t.mode = new at hoff
    subst hoff
    refine ⟨?frame, disableEffect_flush P _, fun hkeep => ?keep, fun hflush => ?flush⟩
    case frame => exact disableEffect_frame P _
    case keep => rw [disableEffect_of_keep P _ hkeep]; exact ⟨rfl, rfl, rfl, rfl⟩
    case flush => rw [disableEffect_of_flush P _ hflush]; exact ⟨rfl, rfl, rfl, rfl⟩
  case turnedOn => simpa [hs] using regWrite_changes_on P s h (by simp [hs, ht])

/-- Settles O29: by `regWrite_clears_oerr` the write is one of STA's image, whose OERR-clear effect moves RXF only as
OERR_CLEAR_FLUSH says; OERR being 0 after it, the receive guard asks only ON and URXEN. -/
theorem overrunClearMayFlushAndResumesReception : Obligations.OverrunClearMayFlushAndResumesReception := by
  unfold Obligations.OverrunClearMayFlushAndResumesReception
  intro P r v s t h hs ht hon
  obtain ⟨c, rfl⟩ := regWrite_clears_oerr P s h hs ht hon
  refine ⟨(writeSta_rxf P s c).imp_right And.right, writeSta_rxf_of_keep P s c,
    fun hflush => writeSta_rxf_of_flush P s c hflush hs ht, writeSta_txf P s c, writeSta_tsr P s c,
    writeSta_mode P s c, writeSta_brg P s c, fun data fe pe hson hurxen => ?_⟩
  rw [lineEnabled_rx, hson, hurxen, ht]
  rfl

end

section
/-! PROOF. The illegal words (30_encoding.md rules R107, R109, R110): which words each format's decoder refuses, the
format each opcode selects, and what acceptance and S.1 make of a word refused. -/

namespace Sys2Proof

/-! ## What each format's decoder refuses (R102-R106) -/

theorem decodePlain_illegal_iff (W : Word) (i : Instr) :
    (∃ why, decodePlain W i = .illegal why) ↔ W.extractLsb' 8 24 ≠ 0 := by
  unfold decodePlain; split <;> simp_all

theorem decodeSet_illegal_iff (W : Word) :
    (∃ why, decodeSet W = .illegal why) ↔ W.extractLsb' 9 23 ≠ 0 := by
  unfold decodeSet; split <;> simp_all

theorem decodeSetup_illegal_iff (W : Word) :
    (∃ why, decodeSetup W = .illegal why) ↔
      W.extractLsb' 13 19 ≠ 0 ∨ (W.getLsbD 8 = true ∧ W.extractLsb' 10 2 = 0b11#2) := by
  unfold decodeSetup
  by_cases hzero : W.extractLsb' 13 19 = 0#19
  · by_cases hpair : W.getLsbD 8 = true ∧ W.extractLsb' 10 2 = 0b11#2
    · rw [if_pos hzero, if_pos hpair]; exact iff_of_true ⟨_, rfl⟩ (.inr hpair)
    · rw [if_pos hzero, if_neg hpair]; exact iff_of_false nofun (not_or.2 ⟨not_not.2 hzero, hpair⟩)
  · rw [if_neg hzero]; exact iff_of_true ⟨_, rfl⟩ (.inl hzero)

/-! ## The format an opcode selects (R107) -/

@[simp] theorem decodeOpcode_setup (W : Word) : decodeOpcode 0x1#4 W = decodeSetup W := rfl
@[simp] theorem decodeOpcode_set (W : Word) : decodeOpcode 0xB#4 W = decodeSet W := rfl

theorem decodeOpcode_reserved (W : Word) {opc : BitVec 4} (h : 12 ≤ opc.toNat) :
    decodeOpcode opc W = .illegal .reservedOpcode := by
  have hopc : opc = 0xC#4 ∨ opc = 0xD#4 ∨ opc = 0xE#4 ∨ opc = 0xF#4 := by bv_omega
  obtain rfl | rfl | rfl | rfl := hopc <;> rfl

/-- The opcodes below 0xC other than SERIAL_SETUP's and AUTOBAUD_SET's are of formats N, B and D. -/
theorem decodeOpcode_plain (W : Word) {opc : BitVec 4} (h : opc.toNat < 12) (hS : opc ≠ 0x1#4) (hE : opc ≠ 0xB#4) :
    ∃ i, decodeOpcode opc W = decodePlain W i := by
  have hopc : opc = 0x0#4 ∨ opc = 0x2#4 ∨ opc = 0x3#4 ∨ opc = 0x4#4 ∨ opc = 0x5#4 ∨ opc = 0x6#4 ∨
      opc = 0x7#4 ∨ opc = 0x8#4 ∨ opc = 0x9#4 ∨ opc = 0xA#4 := by bv_omega
  obtain rfl | rfl | rfl | rfl | rfl | rfl | rfl | rfl | rfl | rfl := hopc <;> exact ⟨_, rfl⟩

/-- The words that an opcode's format refuses. -/
theorem decodeOpcode_illegal_iff (opc : BitVec 4) (W : Word) :
    (∃ why, decodeOpcode opc W = .illegal why) ↔
      12 ≤ opc.toNat ∨
      (opc = 0x1#4 ∧ (W.extractLsb' 13 19 ≠ 0 ∨ (W.getLsbD 8 = true ∧ W.extractLsb' 10 2 = 0b11#2))) ∨
      (opc = 0xB#4 ∧ W.extractLsb' 9 23 ≠ 0) ∨
      (opc ≠ 0x1#4 ∧ opc ≠ 0xB#4 ∧ W.extractLsb' 8 24 ≠ 0) := by
  by_cases hres : 12 ≤ opc.toNat
  · exact iff_of_true ⟨_, decodeOpcode_reserved W hres⟩ (.inl hres)
  by_cases hS : opc = 0x1#4
  · subst hS; simpa using decodeSetup_illegal_iff W
  by_cases hE : opc = 0xB#4
  · subst hE; simpa using decodeSet_illegal_iff W
  obtain ⟨i, hi⟩ := decodeOpcode_plain W (by omega) hS hE
  simpa [hi, hres, hS, hE] using decodePlain_illegal_iff W i

/-- A nonzero Z field makes a word illegal whatever its opcode is. -/
theorem decode_illegal_iff (W : Word) :
    (∃ why, decode W = .illegal why) ↔
      W.extractLsb' 4 4 ≠ 0 ∨ ∃ why, decodeOpcode (W.extractLsb' 0 4) W = .illegal why := by
  unfold decode; split <;> simp_all

namespace Machine

/-! ## What becomes of such a word (R110, R122, R210) -/

theorem takeTurn_writeCmd_idle (W : Word) (s : State) (h : s.ph = .idle) :
    takeTurn (.host (.writePort offCmd W)) s = .next (accept W s) := by
  change Host.Outcome.next (writeCmd W s) = _
  unfold writeCmd; rw [h]

/-- A well-formed SERIAL_SETUP at S.1 validates its configuration. -/
theorem exec_serialSetup_s1 (cp wd : Bool) (par : BitVec 2) (sb : Bool) (s : State)
    (hwf : (Instr.serialSetup cp wd par sb).wellFormed = true) (h : s.ph = .s1) :
    exec (.serialSetup cp wd par sb) s = .next (setupValidate cp wd par s) := by
  change serialSetupStep _ cp wd par sb s = _
  unfold serialSetupStep
  rw [if_neg (by simp [hwf]), h]

/-- S.1 has no answer but INVALID_COMBINATION to 9 data bits with a parity. -/
theorem setupValidate_nine_parity (par : BitVec 2) (s : State) (h : par ≠ 0b00#2) :
    setupValidate true true par s = finish .fail .invalidCombination 0 s := by
  unfold setupValidate
  rw [if_neg nofun, if_pos (.inr ⟨rfl, h⟩)]

end Machine

/-- Format S with CP = 1, WD = 1: the word of R115's 9-bit rows with any parity field but the reserved one. -/
theorem decode_setup_nine (par : BitVec 2) (sb : Bool) (h : par ≠ 0b11#2) :
    decode (0x00000301#32 ||| (par.setWidth 32 <<< 10) ||| ((BitVec.ofBool sb).setWidth 32 <<< 12)) =
      .command (.serialSetup true true par sb) := by
  revert par sb; decide

end Sys2Proof

open Sys2Proof Sys2Proof.Machine

/-- Settles O16: each row of the table is one evaluation of the decoder. -/
theorem wordsOfTheEncodingTableDecode : Obligations.WordsOfTheEncodingTableDecode := by
  unfold Obligations.WordsOfTheEncodingTableDecode
  decide

/-- Settles O15: the list is `decode_illegal_iff` with each opcode's format's own refusals; `accept` finishes such a
word at once; and S.1 rejects 9 data bits with a parity whatever the baud rate is. -/
theorem illegalWordsAreExactlyTheListed : Obligations.IllegalWordsAreExactlyTheListed := by
  unfold Obligations.IllegalWordsAreExactlyTheListed
  refine ⟨fun W => ?listed, fun W why s hW hidle => ?refused, fun par sb s hpar => ?rejected⟩
  case listed =>
    rw [decode_illegal_iff, decodeOpcode_illegal_iff, or_left_comm]
  case refused =>
    rw [takeTurn_writeCmd_idle W s hidle, accept_illegal W s why hW, ← hidle]
    rfl
  case rejected =>
    have hne : par ≠ 0b00#2 ∧ par ≠ 0b11#2 := by obtain rfl | rfl := hpar <;> decide
    have hwf : (Instr.serialSetup true true par sb).wellFormed = true := by
      obtain rfl | rfl := hpar <;> rfl
    refine ⟨decode_setup_nine par sb hne.2, fun hs1 => ?_⟩
    rw [exec_serialSetup_s1 _ _ _ _ s hwf hs1, setupValidate_nine_parity par s hne.1]
    rfl

end

section
/-! PROOF. The configuration commands' parts (40_configuration.md rules R120, R123): each label of INITIALIZE by the
state it leaves, and the divisor calculator's rounding. -/

namespace Sys2Proof.Machine

/-! ## The writes of INITIALIZE (R120) -/

section
variable (P : Params) (s : State)

/-- INIT_MODE has ABAUD = 0, which R83 refuses first while autobaud is in progress. -/
theorem writeMode_initMode_autobaud (h : modeOn s.mode = true ∧ modeAbaud s.mode = true) :
    writeMode P 0x0008#16 s = .error .abaudCleared :=
  writeMode_error P s _ _ (if_pos ⟨h.1, h.2, rfl⟩)

/-- Outside autobaud MODE takes INIT_MODE, and what else moves is the disable effect, when ON was 1. -/
theorem writeMode_initMode (h : ¬(modeOn s.mode = true ∧ modeAbaud s.mode = true)) :
    writeMode P 0x0008#16 s =
      .ok (if modeOn s.mode = true then disableEffect P { s with mode := 0x0008#16 }
        else { s with mode := 0x0008#16 }) := by
  split_ifs with hon
  · exact writeMode_disable P s _ hon rfl fun ha => absurd ⟨hon, ha⟩ h
  · exact writeMode_off P s _ (by simpa using hon)

theorem regWrite_staSet_enables :
    regWrite P .staSet (sUtxen ||| sUrxen) s = .ok { s with utxen := true, urxen := true } := by
  have hv : sUtxen ||| sUrxen = 0x00001400#32 := rfl
  rw [hv, regWrite_staSet]
  simp

theorem regWrite_brg_off (v : Half) (hoff : modeOn s.mode = false) :
    regWrite P .brg (v.setWidth 32) s = .ok { s with brg := v } := by
  simp [regWrite, writeBrg, hoff]

theorem regWrite_modeSet_on_off (hoff : modeOn s.mode = false) :
    regWrite P .modeSet mOn s = .ok { s with mode := s.mode ||| 0x8000#16 } := by
  simp [regWrite, writeMode_off P s _ hoff, mOn]

end

/-! ## INITIALIZE, label by label (R120) -/

section
variable {s : State}

theorem exec_initialise_i1 (h : s.ph = .i1) : exec .initialise s =
    .next (afterAccess s (writeMode Config.params 0x0008#16 s) fun u => { u with ph := .i2 }) := by
  change initialiseStep _ s = _
  unfold initialiseStep
  rw [h]
  rfl

theorem exec_initialise_i2 (h : s.ph = .i2) :
    exec .initialise s = .next { s with utxen := true, urxen := true, ph := .i3 } := by
  simp [exec, execInitialise, initialiseStep, h, regWrite_staSet_enables]

theorem exec_initialise_i3 (h : s.ph = .i3) (hoff : modeOn s.mode = false) :
    exec .initialise s = .next { s with brg := Config.params.initBrg, ph := .i4 } := by
  simp [exec, execInitialise, initialiseStep, h, regWrite_brg_off, hoff]

theorem exec_initialise_i4 (h : s.ph = .i4) (hmode : s.mode = 0x0008#16) :
    exec .initialise s = .next { s with ph := .idle, res := 0x00000001#32, mode := 0x8008#16 } := by
  have hoff : modeOn s.mode = false := by rw [hmode]; rfl
  simp only [exec, execInitialise, initialiseStep, h, regWrite_modeSet_on_off _ s hoff, hmode]
  rfl

end

/-- The state INITIALIZE's labels I.2 to I.4 leave of the state `u` after I.1's write. -/
def initialised (P : Params) (u : State) : State :=
  { u with ph := .idle, res := 0x00000001#32, mode := 0x8008#16, brg := P.initBrg, utxen := true, urxen := true }

/-! ## The divisor calculator (R123) -/

section
variable (clk baud : Nat)

theorem baudDiv_divisor : (baudDiv clk baud).2 = ((clk / 4 + baud / 2) / baud : Nat) - 1 := rfl

theorem baudDiv_inRange_iff :
    (baudDiv clk baud).1 = true ↔ 0 ≤ (baudDiv clk baud).2 ∧ (baudDiv clk baud).2 ≤ 65535 :=
  decide_eq_true_iff

end

/-! Rounding to nearest: `(n + b / 2) / b` for any numerator and nonzero denominator. -/

section
variable {n b : Nat} (hb : 1 ≤ b)
include hb

theorem roundedQuotient_eq_zero_iff : (n + b / 2) / b = 0 ↔ n < b - b / 2 := by
  rw [Nat.div_eq_zero_iff]; omega

/-- The error is at most half the denominator, since `n + b / 2` lies in `[q b, q b + b)`. -/
theorem roundedQuotient_error : |(n : Int) - ((n + b / 2) / b : Nat) * (b : Int)| ≤ (b / 2 : Nat) := by
  have hle : (n + b / 2) / b * b ≤ n + b / 2 := Nat.div_mul_le_self _ _
  have hlt : n + b / 2 < (n + b / 2) / b * b + b := Nat.lt_div_mul_add hb
  rw [abs_le]
  zify at hle hlt ⊢
  omega

/-- A tie is `n = (m + 1/2) b`: then `b = 2 c` is even, and `n + c = (m + 1) b`. -/
theorem roundedQuotient_tie {m : Nat} (h : 2 * n = (2 * m + 1) * b) : b % 2 = 0 ∧ (n + b / 2) / b = m + 1 := by
  have heven : Even b := by
    have : Even ((2 * m + 1) * b) := h ▸ even_two_mul n
    simpa [Nat.even_mul, Nat.even_add_one] using this
  obtain ⟨c, rfl⟩ := heven.two_dvd
  have hsum : n + 2 * c / 2 = (m + 1) * (2 * c) := by
    rw [Nat.mul_div_cancel_left c two_pos]; linarith
  exact ⟨Nat.mul_mod_right 2 c, by rw [hsum, Nat.mul_div_cancel _ hb]⟩

end

end Sys2Proof.Machine

open Sys2Proof Sys2Proof.Machine

/-- Settles O34: at I.1 the write of INIT_MODE is refused exactly in autobaud; performed, it leaves ON = 0, so that
I.2 to I.4 are performed too, and UTXBRK and the FIFOs move only by I.1's disable effect. -/
theorem initializeProgramsDefaultOrFaults : Obligations.InitializeProgramsDefaultOrFaults := by
  unfold Obligations.InitializeProgramsDefaultOrFaults
  intro s hph
  refine ⟨fun hautobaud => ?faults, fun hperformed => ?completes⟩
  case faults => rw [exec_initialise_i1 hph, writeMode_initMode_autobaud _ s hautobaud]; rfl
  case completes =>
    have hw := writeMode_initMode Config.params s hperformed
    generalize hu : (if modeOn s.mode = true then _ else _) = u at hw
    have hmode : u.mode = 0x0008#16 := by rw [← hu]; split_ifs <;> simp
    have hoff : modeOn u.mode = false := by rw [hmode]; rfl
    refine ⟨{ u with ph := .i2 }, _, _, initialised Config.params u, ?first, exec_initialise_i2 rfl,
      exec_initialise_i3 rfl hoff, exec_initialise_i4 rfl hmode, rfl, hmode, rfl, rfl, rfl, rfl, rfl, hoff, ?effects⟩
    case first => rw [exec_initialise_i1 hph, hw]; rfl
    case effects =>
      by_cases hon : modeOn s.mode = true
      · rw [if_pos hon] at hu ⊢
        subst hu
        refine ⟨?frame, ?choice, fun hkeep => ?keep, fun _ hflush => ?flush⟩
        case frame => exact congrArg (initialised Config.params) (disableEffect_frame Config.params _)
        case choice => exact (disableEffect_flush Config.params _).imp_right fun hempty => ⟨hon, hempty⟩
        case keep => rw [disableEffect_of_keep _ _ hkeep]; exact ⟨rfl, rfl, rfl, rfl⟩
        case flush => rw [disableEffect_of_flush _ _ hflush]; exact ⟨rfl, rfl, rfl, rfl⟩
      · rw [if_neg hon] at hu ⊢
        subst hu
        exact ⟨rfl, .inl ⟨rfl, rfl, rfl, rfl⟩, fun _ => ⟨rfl, rfl, rfl, rfl⟩, fun h => absurd h hon⟩

/-- Settles O38: the divisor is the rounded quotient less one, so its laws are the laws of rounding `clk / 4` over
`baud` to nearest. -/
theorem divisorIsRoundedToNearest : Obligations.DivisorIsRoundedToNearest := by
  unfold Obligations.DivisorIsRoundedToNearest
  refine ⟨fun clk baud hclk hbaud hbaud' => ?laws, by decide⟩
  case laws =>
    have hzero := roundedQuotient_eq_zero_iff (n := clk / 4) hbaud
    refine ⟨baudDiv_divisor clk baud, baudDiv_inRange_iff clk baud, by omega, ?_, ?_, ?_,
      roundedQuotient_error hbaud, fun m => roundedQuotient_tie hbaud⟩
    all_goals rw [baudDiv_divisor]; omega

end

section
/-! PROOF. ErrorClear (41_error_recovery.md rule R141): each of its four labels by the state it leaves, in whichever of
its two callers it runs. -/

namespace Sys2Proof.Machine

section
variable (P : Params) (s : State)

@[simp] theorem urxda_eq_true_iff : urxda s = true ↔ s.rxf ≠ [] := by
  simp [urxda]

/-- A pop moves the receive FIFO and, when it is empty, the draw counter (R80). -/
theorem rxPop_frame : rxPop s = { s with rxf := s.rxf.tail, draws := (rxPop s).draws } := by
  cases h : s.rxf with
  | nil => rw [rxPop_nil s h, List.tail_nil, ← h]; rfl
  | cons u rest => rw [rxPop_cons s u rest h]; rfl

/-- The OERR-clear effect moves the receive FIFO and the draw counter only (R86). -/
theorem oerrClearEffect_frame : oerrClearEffect P s = { s with
    rxf := (oerrClearEffect P s).rxf, draws := (oerrClearEffect P s).draws } := by
  unfold oerrClearEffect; split <;> rfl

/-! ## The four labels -/

theorem errorClearTest_eq : errorClearTest P s = { s with
    t := staImage P s (P.drawRidle s.draws), draws := s.draws + 1, ph := if s.oerr = true then .ec2 else .ec3 } := by
  simp [errorClearTest, drawn]

/-- EC.2 is one write of STA's image: the overrun latch's bit cleared, the others as they are. -/
theorem errorClearLatch_eq_writeSta :
    errorClearLatch P s = { writeSta P (staOld P s &&& ~~~sOerr) s with ph := .ec3 } := rfl

theorem writeSta_staClr_oerr : (writeSta P (staOld P s &&& ~~~sOerr) s).oerr = false := by
  simp [sOerr]

theorem writeSta_staClr_eq : writeSta P (staOld P s &&& ~~~sOerr) s =
    if s.oerr = true then oerrClearEffect P { s with oerr := false } else s :=
  Except.ok.inj (regWrite_staClr_oerr P s)

theorem errorClearLatch_frame : errorClearLatch P s = { s with
    oerr := false, ph := .ec3, rxf := (errorClearLatch P s).rxf, draws := (errorClearLatch P s).draws } := by
  rw [errorClearLatch_eq_writeSta, writeSta_staClr_eq]
  split_ifs with h
  · rw [oerrClearEffect_frame]
  · rw [← eq_false_of_ne_true h]

theorem errorClearPoll_eq (back : Phase) : errorClearPoll P back s = { s with
    t := staImage P s (P.drawRidle s.draws), draws := s.draws + 1, ph := if s.rxf = [] then back else .ec4 } := by
  simp [errorClearPoll, drawn]

theorem errorClearDrain_eq :
    errorClearDrain P s = { s with ph := .ec3, rxf := s.rxf.tail, draws := (rxPop s).draws } := by
  simp only [errorClearDrain, regRead_rxreg, afterRead_mk]
  rw [rxPop_frame]

end

/-- ErrorClear's labels are the same steps in ERROR_GET and in READ, but for the label EC.3 goes on at. -/
theorem exec_errorClear (s : State) {i : Instr} {back : Phase}
    (hcaller : (i = .errorGet ∧ back = .g2) ∨ (i = .read ∧ back = .r2)) :
    (s.ph = .ec1 → exec i s = .next (errorClearTest Config.params s)) ∧
    (s.ph = .ec2 → exec i s = .next (errorClearLatch Config.params s)) ∧
    (s.ph = .ec3 → exec i s = .next (errorClearPoll Config.params back s)) ∧
    (s.ph = .ec4 → exec i s = .next (errorClearDrain Config.params s)) := by
  obtain ⟨rfl, rfl⟩ | ⟨rfl, rfl⟩ := hcaller
  case inl => refine ⟨?_, ?_, ?_, ?_⟩ <;> intro h <;> simp [exec, execErrorGet, errorGetStep, h]
  case inr => refine ⟨?_, ?_, ?_, ?_⟩ <;> intro h <;> simp [exec, execRead, readStep, h]

end Sys2Proof.Machine

open Sys2Proof.Machine

/-- Settles O42: `exec_errorClear` gives each label's step in both callers, and the label's own lemma the state that
step leaves. -/
theorem errorClearSteps : Obligations.ErrorClearSteps := by
  unfold Obligations.ErrorClearSteps
  intro s i back hcaller
  obtain ⟨hec1, hec2, hec3, hec4⟩ := exec_errorClear s hcaller
  refine ⟨fun hph => ?test, fun hph => ?latch, fun hph => ?poll, fun hph => ?drain⟩
  case test => exact ⟨_, _, by rw [hec1 hph, errorClearTest_eq]⟩
  case latch =>
    refine ⟨_, hec2 hph, errorClearLatch_frame _ s, ?_⟩
    rw [errorClearLatch_eq_writeSta]
    exact ⟨writeSta_rxf _ s _, writeSta_rxf_of_keep _ s _,
      fun hoerr hflush => writeSta_rxf_of_flush _ s _ hflush hoerr (writeSta_staClr_oerr _ s)⟩
  case poll => exact ⟨_, _, by rw [hec3 hph, errorClearPoll_eq]⟩
  case drain => exact ⟨_, by rw [hec4 hph, errorClearDrain_eq], rfl⟩

end

section
/-! PROOF. The single-unit commands and the status predicates (43_single_unit.md rules R170 to R178): the flags they
test by what the FIFOs and TSR hold, a write of TXREG by its two cases, and each label by the state it leaves. -/

namespace Sys2Proof.Machine

/-! ## Flags and results -/

section
variable (P : Params) (s : State)

@[simp] theorem utxbf_eq_true_iff : utxbf P s = true ↔ s.txf.length = P.txDepth := by
  simp [utxbf]

@[simp] theorem trmt_eq_true_iff : trmt s = true ↔ s.txf = [] ∧ s.tsr = none := by
  simp [trmt]

/-- A flag's answer: STATUS OK, and VALUE 1 or 0 (R26). -/
theorem resWord_flagValue (b : Bool) :
    resWord .ok .none (flagValue b) = if b = true then 0x00010001#32 else 0x00000001#32 := by
  cases b <;> rfl

/-! ## A write of TXREG (R84) -/

theorem regWrite_txreg_full (v : Word) (h : s.txf.length = P.txDepth) :
    regWrite P .txreg v s = .error .txOverflow := if_pos h

theorem regWrite_txreg_room (v : Word) (h : s.txf.length ≠ P.txDepth) :
    regWrite P .txreg v s = .ok { s with txf := s.txf ++ [keptUnit s.mode v] } := if_neg h

end

/-! ## WRITE_BYTE and READ_BYTE, label by label (R170, R172) -/

section
variable {s : State}

theorem writeBytePoll_eq (P : Params) : writeBytePoll P s = { s with
    t := staImage P s (P.drawRidle s.draws), draws := s.draws + 1
    ph := if s.txf.length = P.txDepth then .wb1 else .wb2 } := by
  simp [writeBytePoll, drawn]

theorem exec_writeByte_wb1 (h : s.ph = .wb1) :
    exec .writeByte s = .next (writeBytePoll Config.params s) := by
  simp [exec, execWriteByte, writeByteStep, h]

theorem exec_writeByte_wb2 (h : s.ph = .wb2) : exec .writeByte s =
    .next (afterAccess s (regWrite Config.params .txreg s.opaL s) (finish .ok .none 0)) := by
  simp [exec, execWriteByte, writeByteStep, h]

/-- READ_BYTE answers what a read of RXREG returns, whatever the error flags are. -/
theorem exec_readByte_rb1 (h : s.ph = .rb1) : exec .readByte s =
    .next (finish .ok .none ((rxData Config.params s).setWidth 16)
      { rxPop s with t := (rxData Config.params s).setWidth 32 }) := by
  simp [exec, execReadByte, readByteStep, h]

/-! ## The status predicates (R174-R178) -/

theorem exec_txReady : exec .txReady s = predicateStep Config.params (fun v => !v.getLsbD 9) s := rfl
theorem exec_rxReady : exec .rxReady s = predicateStep Config.params (fun v => v.getLsbD 0) s := rfl
theorem exec_txComplete : exec .txComplete s = predicateStep Config.params (fun v => v.getLsbD 8) s := rfl

/-- A predicate whose test of STA's image says `p`, whatever the drawn RIDLE is, answers 1 exactly when `p` holds, and
moves nothing but the phase, `t` and RES. -/
theorem predicateStep_answers {P : Params} {answer : Word → Bool} {p : Prop} [Decidable p] (h : s.ph = .p1)
    (hanswer : ∀ ridle, answer (staImage P s ridle) = true ↔ p) :
    ∃ (ridle : Bool) (n : Nat), predicateStep P answer s = .next { s with
      ph := .idle, t := staImage P s ridle, draws := n
      res := if p then 0x00010001#32 else 0x00000001#32 } := by
  refine ⟨P.drawRidle s.draws, s.draws + 1, ?_⟩
  rw [← if_congr (hanswer (P.drawRidle s.draws)) rfl rfl, ← resWord_flagValue]
  unfold predicateStep
  rw [h]
  rfl

end

end Sys2Proof.Machine

open Sys2Proof Sys2Proof.Machine

/-- Settles O53: WB.1 tests UTXBF; WB.2 is the write of TXREG, refused exactly when the FIFO is full; and the
invariant's clause `room` keeps it from being full there. -/
theorem writeByteWaitsThenSends : Obligations.WriteByteWaitsThenSends := by
  unfold Obligations.WriteByteWaitsThenSends
  refine fun s => ⟨fun hph => ?waits, fun hph => ?sends, fun hinv hph => ?room⟩
  case waits => exact ⟨_, _, by rw [exec_writeByte_wb1 hph, writeBytePoll_eq]⟩
  case sends =>
    rw [exec_writeByte_wb2 hph]
    by_cases hfull : s.txf.length = Config.params.txDepth
    · rw [regWrite_txreg_full _ s _ hfull, if_pos hfull]; rfl
    · rw [regWrite_txreg_room _ s _ hfull, if_neg hfull]; rfl
  case room => exact (hinv.room (by rw [hph]; rfl)).ne

/-- Settles O54: READ_BYTE answers what a read of RXREG returns, the head unit's data, or a draw when there is no
unit. -/
theorem readByteReturnsHeadUnchecked : Obligations.ReadByteReturnsHeadUnchecked := by
  unfold Obligations.ReadByteReturnsHeadUnchecked
  refine fun s hph => ⟨fun u rest hcons => ?head, fun hnil => ?empty⟩
  case head => rw [exec_readByte_rb1 hph, rxData_cons _ s u rest hcons, rxPop_cons s u rest hcons]; rfl
  case empty => exact ⟨_, _, by rw [exec_readByte_rb1 hph, rxPop_nil s hnil]; rfl⟩

/-- Settles O55: TX_READY answers the negation of bit 9, UTXBF, so the two results stand the other way round. -/
theorem txReadyReportsRoom : Obligations.TxReadyReportsRoom := by
  unfold Obligations.TxReadyReportsRoom
  intro s hph
  have hroom (ridle : Bool) : (!(staImage Config.params s ridle).getLsbD 9) = true ↔
      ¬s.txf.length = Config.params.txDepth := by simp [← utxbf_eq_true_iff]
  simpa only [exec_txReady, ite_not] using
    predicateStep_answers (answer := fun v => !v.getLsbD 9) hph hroom

/-- Settles O56: RX_READY answers bit 0, URXDA, which looks at no error flag. -/
theorem rxReadyReportsData : Obligations.RxReadyReportsData := by
  unfold Obligations.RxReadyReportsData
  intro s hph
  have hdata (ridle : Bool) : (staImage Config.params s ridle).getLsbD 0 = true ↔ ¬s.rxf = [] := by simp
  simpa only [exec_rxReady, ite_not] using
    predicateStep_answers (answer := fun v => v.getLsbD 0) hph hdata

/-- Settles O57: TX_COMPLETE answers bit 8, TRMT. -/
theorem txCompleteReportsIdleTransmitter : Obligations.TxCompleteReportsIdleTransmitter := by
  unfold Obligations.TxCompleteReportsIdleTransmitter
  intro s hph
  have hidle (ridle : Bool) : (staImage Config.params s ridle).getLsbD 8 = true ↔
      s.txf = [] ∧ s.tsr = none := by simp
  rw [exec_txComplete]
  exact predicateStep_answers hph hidle

end

section
/-! PROOF. The autobaud commands (44_autobaud.md rules R180, R181): MODE's image keeps ABAUD, the write of M_ABAUD to
MODESET is performed in every mode, and each command's label by the state it leaves. -/

namespace Sys2Proof.Machine

/-! ## ABAUD through the register bus (R80, R82, R83) -/

section
variable (P : Params) (s : State)

@[simp] theorem modeAbaud_modeImage : modeAbaud (modeImage s) = modeAbaud s.mode := by
  simp [modeAbaud, modeImage]

/-- Setting ABAUD alone clears no ABAUD and leaves ON, PDSEL, STSEL and BRGH, so neither check of R83 refuses it and the
disable effect of R85 does not occur. -/
theorem regWrite_modeSet_abaud :
    regWrite P .modeSet mAbaud s = .ok { s with mode := s.mode ||| 0x0020#16 } := by
  have hcandidate : regWrite P .modeSet mAbaud s = writeMode P (s.mode ||| 0x0020#16) s :=
    congrArg (writeMode P · s) (modeImage_or s mAbaud)
  rw [hcandidate]
  have hpdsel : modePdsel (0x0020#16) = 0#2 := rfl
  have hstsel : modeStsel (0x0020#16) = false := rfl
  have hbrgh : modeBrgh (0x0020#16) = false := rfl
  cases hon : modeOn s.mode with
  | false => exact writeMode_off P s _ hon
  | true =>
    exact writeMode_on P s _ hon (by simp [hon]) (fun habaud => by simp [habaud])
      (by simp [hpdsel]) (by simp [hstsel]) (by simp [hbrgh])

end

/-! ## The two commands' labels (R180, R181) -/

section
variable {s : State}

theorem exec_autobaudQuery_aq1 (h : s.ph = .aq1) : exec .autobaudQuery s =
    .next (finish .ok .none (flagValue (modeAbaud s.mode)) { s with t := modeImage s }) := by
  simp [exec, execAutobaudQuery, autobaudQueryStep, h]

theorem exec_autobaudSet_true_as1 (h : s.ph = .as1) : exec (.autobaudSet true) s =
    .next (afterAccess s (regWrite Config.params .modeSet mAbaud s) (finish .ok .none 0)) := by
  simp [exec, execAutobaudSet, autobaudSetStep, h]

/-- EN = 0 performs no access (R181). -/
theorem exec_autobaudSet_false_as1 (h : s.ph = .as1) :
    exec (.autobaudSet false) s = .next (finish .ok .none 0 s) := by
  simp [exec, execAutobaudSet, autobaudSetStep, h]

end

end Sys2Proof.Machine

open Sys2Proof Sys2Proof.Machine

/-- Settles O58: AQ.1 answers bit 5 of MODE's image, which is the stored ABAUD. -/
theorem autobaudQueryReportsBit : Obligations.AutobaudQueryReportsBit := by
  unfold Obligations.AutobaudQueryReportsBit
  intro s hph
  rw [exec_autobaudQuery_aq1 hph, ← resWord_flagValue]
  rfl

/-- Settles O59: with EN = 1, AS.1 is the write of M_ABAUD to MODESET, which is performed in every mode; with EN = 0 it
only finishes. -/
theorem autobaudSetOnlySets : Obligations.AutobaudSetOnlySets := by
  unfold Obligations.AutobaudSetOnlySets
  refine fun s hph => ⟨?set, ?leave⟩
  case set => rw [exec_autobaudSet_true_as1 hph, regWrite_modeSet_abaud]; rfl
  case leave => rw [exec_autobaudSet_false_as1 hph]; rfl

end

section
/-! PROOF. The host's port (60_exceptions.md rules R210, R211, R196): a write to each writable offset by the function
that performs it, a write to CMD by the phase it finds, and which commands clear `k` at acceptance. -/

namespace Sys2Proof.Machine

/-! ## Port writes by offset (R25) -/

section
variable (v : Word) (s : State)

@[simp] theorem hostWrite_offCmd : hostWrite offCmd v s = writeCmd v s := rfl
@[simp] theorem hostWrite_offOpa : hostWrite offOpa v s = { s with opa := v } := rfl
@[simp] theorem hostWrite_offOpb : hostWrite offOpb v s = { s with opb := v } := rfl

end

@[simp] theorem takeTurn_writePort (off : Nat) (v : Word) (s : State) :
    takeTurn (.host (.writePort off v)) s = .next (hostWrite off v s) := rfl

@[simp] theorem takeTurn_readPort (off : Nat) (s : State) :
    takeTurn (.host (.readPort off)) s = .next s := rfl

/-! ## A write to CMD outside IDLE (R196, R211) -/

section
variable {s : State} (W : Word)

theorem writeCmd_faulted (h : s.ph = .faulted) : writeCmd W s = s := by
  unfold writeCmd; rw [h]

theorem writeCmd_busy (hidle : s.ph ≠ .idle) (hfaulted : s.ph ≠ .faulted) :
    writeCmd W s = raise .cmdWhileBusy s := by
  obtain ⟨h, -⟩ | ⟨h, -⟩ | ⟨-, -, h⟩ := writeCmd_cases W s
  · exact absurd h hidle
  · exact absurd h hfaulted
  · exact h

end

/-! ## Constants of acceptance and of the fault (R26, R192, R210) -/

theorem isTransfer_iff (i : Instr) : isTransfer i = true ↔ i = .read ∨ i = .write := by
  simp [isTransfer]

theorem resWord_illegalEncoding : resWord .illegal .illegalEncoding 0 = 0x00000063#32 := rfl

theorem raise_cmdWhileBusy (s : State) :
    raise .cmdWhileBusy s = { s with fault := s.fault ||| 0x00000001#32, ph := .faulted } := rfl

end Sys2Proof.Machine

open Sys2Proof Sys2Proof.Machine

/-- Settles O18: the write in IDLE is `accept`, which finishes an illegal word and starts a command; the first labels
are the table of `firstLabel`. -/
theorem commandWriteInIdleIsAcceptance : Obligations.CommandWriteInIdleIsAcceptance := by
  unfold Obligations.CommandWriteInIdleIsAcceptance
  refine ⟨fun s W hidle => ⟨fun why hW => ?illegal, fun i hW => ?command⟩, ?labels, fun s v => ?otherPorts⟩
  case illegal =>
    rw [takeTurn_writeCmd_idle W s hidle, accept_illegal W s why hW, resWord_illegalEncoding, ← hidle]
  case command =>
    rw [takeTurn_writeCmd_idle W s hidle, accept_command W s i hW, if_congr (isTransfer_iff i) rfl rfl]
  case labels => simp [firstLabel]
  case otherPorts => simp

/-- Settles O19: the write is `raise .cmdWhileBusy` at a label and nothing in FAULTED. -/
theorem commandWriteWhileBusyFaults : Obligations.CommandWriteWhileBusyFaults := by
  unfold Obligations.CommandWriteWhileBusyFaults
  refine fun s W => ⟨fun hidle hfaulted => ?busy, fun hfaulted => ?faulted⟩
  case busy =>
    rw [takeTurn_writePort, hostWrite_offCmd, writeCmd_busy W hidle hfaulted, raise_cmdWhileBusy]
  case faulted => rw [takeTurn_writePort, hostWrite_offCmd, writeCmd_faulted W hfaulted]

end

section
/-! PROOF. FAULT through a turn (10_state.md rule R28, 70_reset_and_hazards.md rule R220): a turn that is not a reset
leaves FAULT or sets one fault's bit in it, shown for each label, each command and each agent. -/

namespace Sys2Proof.Machine

/-- FAULT is left alone, or one fault's bit is set in it: all that a step of an agent other than reset does to it. -/
def KeepsOrRaises (s t : State) : Prop := t.fault = s.fault ∨ ∃ kind : FaultKind, t.fault = s.fault ||| kind.mask

theorem KeepsOrRaises.keeps_bit {s t : State} (h : KeepsOrRaises s t) {i : Nat} (hi : s.fault.getLsbD i = true) :
    t.fault.getLsbD i = true := by
  obtain h | ⟨kind, h⟩ := h
  · rw [h, hi]
  · rw [h, BitVec.getLsbD_or, hi, Bool.true_or]

theorem keepsOrRaises_refl (s : State) : KeepsOrRaises s s := .inl rfl

theorem keepsOrRaises_raise (kind : FaultKind) (s : State) : KeepsOrRaises s (raise kind s) := .inr ⟨kind, rfl⟩

section
variable (P : Params) {s t : State}

/-! ## Accesses -/

@[simp] theorem regRead_fault (r : Reg) (s : State) : (regRead P r s).2.fault = s.fault := by
  cases r with
  | rxreg => exact rxPop_fault s
  | mode | brg | txreg | sta | modeClr | modeSet | modeInv | staClr | staSet | staInv => rfl

theorem regWrite_fault {r : Reg} {v : Word} (h : regWrite P r v s = .ok t) : t.fault = s.fault := by
  obtain ⟨new, h⟩ | ⟨c, rfl⟩ | ⟨-, -, rfl⟩ | ⟨-, -, rfl⟩ | ⟨-, rfl⟩ := regWrite_cases P s h
  · obtain rfl | ⟨-, -, rfl⟩ := writeMode_cases P s new t h
    · rfl
    · exact disableEffect_fault P _
  · exact writeSta_fault P s c
  · rfl
  · rfl
  · rfl

/-- A step through an access raises the access's fault, or goes on from a state with the FAULT it began with. -/
theorem keepsOrRaises_afterAccess {α : Type} {access : Except FaultKind α} {go : α → State}
    (hgo : ∀ a, access = .ok a → (go a).fault = s.fault) : KeepsOrRaises s (afterAccess s access go) := by
  cases access with
  | error kind => exact keepsOrRaises_raise kind s
  | ok a => exact .inl (hgo a rfl)

theorem keepsOrRaises_regWrite (r : Reg) (v : Word) {go : State → State} (hgo : ∀ u, (go u).fault = u.fault) :
    KeepsOrRaises s (afterAccess s (regWrite P r v s) go) :=
  keepsOrRaises_afterAccess fun u h => (hgo u).trans (regWrite_fault P h)

theorem memWrite_fault {addr n : Nat} {v : Half} (h : memWrite P addr n v s = .ok t) : t.fault = s.fault := by
  obtain ⟨m, rfl, -, -⟩ := memWrite_cases P s addr n v t h
  rfl

theorem keepsOrRaises_regRead (r : Reg) {go : Word → State → State} (hgo : ∀ v u, (go v u).fault = u.fault) :
    KeepsOrRaises s (afterRead (regRead P r s) go) :=
  .inl ((hgo _ _).trans (regRead_fault P r s))

/-! ## Labels with a choice of their own, and labels shared by two commands -/

@[simp] theorem setupValidate_fault (cp wd : Bool) (par : BitVec 2) :
    (setupValidate cp wd par s).fault = s.fault := by
  unfold setupValidate; split_ifs <;> rfl

@[simp] theorem setupDivisor_fault : (setupDivisor s).fault = s.fault := by
  unfold setupDivisor; split <;> rfl

@[simp] theorem readStart_fault : (readStart P s).fault = s.fault := by
  unfold readStart; split <;> rfl

@[simp] theorem writeStart_fault : (writeStart s).fault = s.fault := by
  unfold writeStart; split <;> rfl

@[simp] theorem countTest_fault (go : Phase) : (countTest go s).fault = s.fault := by
  unfold countTest; split <;> rfl

theorem errorGetQuery_keepsOrRaises : KeepsOrRaises s (errorGetQuery P s) :=
  keepsOrRaises_regRead P .sta fun _ _ => by split <;> rfl

theorem readPoll_keepsOrRaises : KeepsOrRaises s (readPoll P s) :=
  keepsOrRaises_regRead P .sta fun _ _ => by split <;> rfl

theorem sampleWidth_keepsOrRaises (go : Phase) : KeepsOrRaises s (sampleWidth P go s) :=
  keepsOrRaises_regRead P .mode fun _ _ => rfl

theorem errorClearTest_keepsOrRaises : KeepsOrRaises s (errorClearTest P s) :=
  keepsOrRaises_regRead P .sta fun _ _ => rfl

theorem errorClearLatch_keepsOrRaises : KeepsOrRaises s (errorClearLatch P s) :=
  keepsOrRaises_regWrite P .staClr sOerr fun _ => rfl

theorem errorClearPoll_keepsOrRaises (back : Phase) : KeepsOrRaises s (errorClearPoll P back s) :=
  keepsOrRaises_regRead P .sta fun _ _ => rfl

theorem errorClearDrain_keepsOrRaises : KeepsOrRaises s (errorClearDrain P s) :=
  keepsOrRaises_regRead P .rxreg fun _ _ => rfl

/-! ## Commands: `h_n` is the n-th clause of the command's step -/

theorem initialiseStep_keepsOrRaises (h : initialiseStep P s = .next t) : KeepsOrRaises s t := by
  unfold initialiseStep at h
  split at h <;> cases h
  case h_1 => exact keepsOrRaises_regWrite P .mode _ fun _ => rfl
  case h_2 => exact keepsOrRaises_regWrite P .staSet _ fun _ => rfl
  case h_3 => exact keepsOrRaises_regWrite P .brg _ fun _ => rfl
  case h_4 => exact keepsOrRaises_regWrite P .modeSet _ fun _ => rfl

theorem serialSetupStep_keepsOrRaises {cp wd : Bool} {par : BitVec 2} {sb : Bool}
    (h : serialSetupStep P cp wd par sb s = .next t) : KeepsOrRaises s t := by
  unfold serialSetupStep at h
  split at h
  · cases h
  split at h
  case h_3 =>
    split at h <;> cases h
    exact .inl setupDivisor_fault
  all_goals cases h
  case h_1 => exact .inl (setupValidate_fault cp wd par)
  case h_2 => exact .inl rfl
  case h_4 => exact keepsOrRaises_regRead P .sta fun _ _ => rfl
  case h_5 => exact keepsOrRaises_regWrite P .modeClr _ fun _ => rfl
  case h_6 => exact keepsOrRaises_regRead P .mode fun _ _ => rfl
  case h_7 => exact keepsOrRaises_regWrite P .mode _ fun _ => rfl
  case h_8 => exact keepsOrRaises_regWrite P .brg _ fun _ => rfl
  case h_9 => exact keepsOrRaises_regWrite P .modeSet _ fun _ => rfl
  case h_10 => exact keepsOrRaises_regWrite P .staSet _ fun _ => rfl

theorem errorGetStep_keepsOrRaises (h : errorGetStep P s = .next t) : KeepsOrRaises s t := by
  unfold errorGetStep at h
  split at h <;> cases h
  case h_1 => exact errorGetQuery_keepsOrRaises P
  case h_2 => exact errorClearTest_keepsOrRaises P
  case h_3 => exact errorClearLatch_keepsOrRaises P
  case h_4 => exact errorClearPoll_keepsOrRaises P .g2
  case h_5 => exact errorClearDrain_keepsOrRaises P
  case h_6 => exact .inl rfl

theorem readStep_keepsOrRaises (h : readStep P s = .next t) : KeepsOrRaises s t := by
  unfold readStep at h
  split at h
  case h_11 =>
    split at h <;> cases h
    exact keepsOrRaises_afterAccess fun _ hwrite => (memWrite_fault P hwrite :)
  all_goals cases h
  case h_1 => exact .inl (readStart_fault P)
  case h_2 => exact keepsOrRaises_regRead P .sta fun _ _ => rfl
  case h_3 => exact errorClearTest_keepsOrRaises P
  case h_4 => exact errorClearLatch_keepsOrRaises P
  case h_5 => exact errorClearPoll_keepsOrRaises P .r2
  case h_6 => exact errorClearDrain_keepsOrRaises P
  case h_7 => exact sampleWidth_keepsOrRaises P .r3
  case h_8 => exact .inl (countTest_fault .r4)
  case h_9 => exact readPoll_keepsOrRaises P
  case h_10 => exact keepsOrRaises_regRead P .rxreg fun _ _ => rfl

theorem writeStep_keepsOrRaises (h : writeStep P s = .next t) : KeepsOrRaises s t := by
  unfold writeStep at h
  split at h
  case h_5 =>
    split at h <;> cases h
    exact keepsOrRaises_afterAccess fun _ _ => rfl
  all_goals cases h
  case h_1 => exact .inl writeStart_fault
  case h_2 => exact sampleWidth_keepsOrRaises P .w2
  case h_3 => exact .inl (countTest_fault .w3)
  case h_4 => exact keepsOrRaises_regRead P .sta fun _ _ => rfl
  case h_6 => exact keepsOrRaises_regWrite P .txreg _ fun _ => rfl

theorem writeByteStep_keepsOrRaises (h : writeByteStep P s = .next t) : KeepsOrRaises s t := by
  unfold writeByteStep at h
  split at h <;> cases h
  case h_1 => exact keepsOrRaises_regRead P .sta fun _ _ => rfl
  case h_2 => exact keepsOrRaises_regWrite P .txreg _ fun _ => rfl

theorem readByteStep_keepsOrRaises (h : readByteStep P s = .next t) : KeepsOrRaises s t := by
  unfold readByteStep at h
  split at h <;> cases h
  exact keepsOrRaises_regRead P .rxreg fun _ _ => rfl

theorem predicateStep_keepsOrRaises {answer : Word → Bool} (h : predicateStep P answer s = .next t) :
    KeepsOrRaises s t := by
  unfold predicateStep at h
  split at h <;> cases h
  exact keepsOrRaises_regRead P .sta fun _ _ => rfl

theorem autobaudQueryStep_keepsOrRaises (h : autobaudQueryStep P s = .next t) : KeepsOrRaises s t := by
  unfold autobaudQueryStep at h
  split at h <;> cases h
  exact keepsOrRaises_regRead P .mode fun _ _ => rfl

theorem autobaudSetStep_keepsOrRaises {en : Bool} (h : autobaudSetStep P en s = .next t) : KeepsOrRaises s t := by
  unfold autobaudSetStep at h
  split at h <;> cases h
  split
  · exact .inl rfl
  · exact keepsOrRaises_regWrite P .modeSet _ fun _ => rfl

theorem exec_keepsOrRaises {i : Instr} (h : exec i s = .next t) : KeepsOrRaises s t := by
  cases i with
  | initialise => exact initialiseStep_keepsOrRaises _ h
  | serialSetup cp wd par sb => exact serialSetupStep_keepsOrRaises _ h
  | errorGet => exact errorGetStep_keepsOrRaises _ h
  | read => exact readStep_keepsOrRaises _ h
  | write => exact writeStep_keepsOrRaises _ h
  | writeByte => exact writeByteStep_keepsOrRaises _ h
  | readByte => exact readByteStep_keepsOrRaises _ h
  | txReady | rxReady | txComplete => exact predicateStep_keepsOrRaises _ h
  | autobaudQuery => exact autobaudQueryStep_keepsOrRaises _ h
  | autobaudSet en => exact autobaudSetStep_keepsOrRaises _ h

/-! ## Agents -/

/-- What a sequencer's turn that is a step can be: no step of its own, or a command's. -/
theorem sequencerTurn_cases (h : sequencerTurn s = .next t) : t = s ∨ ∃ i, exec i s = .next t := by
  unfold sequencerTurn at h
  split at h
  · cases h; exact .inl rfl
  · cases h; exact .inl rfl
  · split at h
    · exact .inr ⟨_, h⟩
    · cases h

@[simp] theorem accept_fault (W : Word) (s : State) : (accept W s).fault = s.fault := by
  cases hW : decode W with
  | illegal why => rw [accept_illegal W s why hW]
  | command i => rw [accept_command W s i hW]

theorem hostWrite_keepsOrRaises (off : Nat) (v : Word) (s : State) : KeepsOrRaises s (hostWrite off v s) := by
  unfold hostWrite
  split_ifs
  · obtain ⟨-, h⟩ | ⟨-, h⟩ | ⟨-, -, h⟩ := writeCmd_cases v s
    · exact .inl (by rw [h, accept_fault])
    · rw [h]; exact keepsOrRaises_refl s
    · rw [h]; exact keepsOrRaises_raise _ s
  · exact .inl rfl
  · exact .inl rfl
  · exact keepsOrRaises_refl s

theorem hostWriteMem_keepsOrRaises (addr : Word) (v : Byte) (s : State) :
    KeepsOrRaises s (hostWriteMem addr v s) := by
  obtain h | ⟨-, h⟩ := hostWriteMem_cases addr v s
  · rw [h]; exact .inl rfl
  · rw [h]; exact .inr ⟨.hostBufferWrite, rfl⟩

@[simp] theorem pollBusy_fault (s : State) : (pollBusy s).fault = s.fault := by
  rw [pollBusy_frame]

theorem hostTurn_keepsOrRaises (a : HostAction) (s : State) : KeepsOrRaises s (hostTurn a s) := by
  cases a with
  | writePort off v => exact hostWrite_keepsOrRaises off v s
  | writeMem addr v => exact hostWriteMem_keepsOrRaises addr v s
  | pollBusy => exact .inl (pollBusy_fault s)
  | readPort | readMem => exact keepsOrRaises_refl s

@[simp] theorem lineEffect_fault (e : LineEvent) (s : State) : (lineEffect P e s).fault = s.fault := by
  cases e with
  | rx data ferr perr => simp only [lineEffect, receive]; split <;> rfl
  | load => simp only [lineEffect, transmitLoad]; split <;> rfl
  | done => simp only [lineEffect, transmitDone]; split <;> rfl
  | autobaud brg => rfl

theorem lineTurn_keepsOrRaises (e : LineEvent) (s : State) : KeepsOrRaises s (lineTurn P e s) := by
  obtain h | ⟨-, h⟩ := lineTurn_cases P e s
  · rw [h]; exact keepsOrRaises_refl s
  · rw [h]; exact .inl (lineEffect_fault P e s)

theorem takeTurn_keepsOrRaises {turn : Turn} (hturn : turn ≠ .reset) (h : takeTurn turn s = .next t) :
    KeepsOrRaises s t := by
  cases turn with
  | sequencer =>
    obtain rfl | ⟨i, h⟩ := sequencerTurn_cases h
    · exact keepsOrRaises_refl _
    · exact exec_keepsOrRaises h
  | line e => cases h; exact lineTurn_keepsOrRaises Config.params e s
  | host a => cases h; exact hostTurn_keepsOrRaises a s
  | reset => exact absurd rfl hturn

end

end Sys2Proof.Machine

open Sys2Proof.Machine

/-- Settles O2: reset's turn is `resetSignal`, which is `State.reset` but for the fields kept; any other turn leaves
FAULT or sets one fault's bit in it (`takeTurn_keepsOrRaises`), so no set bit is lost. -/
theorem resetRestoresTableAndAloneClearsFault : Obligations.ResetRestoresTableAndAloneClearsFault := by
  unfold Obligations.ResetRestoresTableAndAloneClearsFault
  refine fun s => ⟨?reset, fun t turn hturn h i hi => ?otherTurns⟩
  case reset => exact ⟨_, takeTurn_reset s, rfl⟩
  case otherTurns => exact (takeTurn_keepsOrRaises hturn h).keeps_bit hi

end

section
/-! PROOF. Decoding and encoding are inverse (30_encoding.md rules R101 to R110, R112): a word that decodes is put
together again from the fields its format reads, and each well-formed command's word decodes to it. -/

namespace Sys2Proof

section
variable {W : Word}

/-- A word whose bits 31:4 are 0 is its opcode's plain word. -/
theorem eq_plainWord (hhigh : W.extractLsb' 8 24 = 0#24) (hz : W.extractLsb' 4 4 = 0#4) :
    W = plainWord (W.extractLsb' 0 4) :=
  (word_fields W).trans (by rw [hhigh, hz]; rfl)

theorem eq_encode_serialSetup (hhigh : W.extractLsb' 13 19 = 0#19) (hz : W.extractLsb' 4 4 = 0#4)
    (hopc : W.extractLsb' 0 4 = 0x1#4) :
    W = encode (.serialSetup (W.getLsbD 8) (W.getLsbD 9) (W.extractLsb' 10 2) (W.getLsbD 12)) :=
  (word_fields_setup W).trans (by rw [hhigh, hz, hopc]; rfl)

theorem eq_encode_autobaudSet (hhigh : W.extractLsb' 9 23 = 0#23) (hz : W.extractLsb' 4 4 = 0#4)
    (hopc : W.extractLsb' 0 4 = 0xB#4) : W = encode (.autobaudSet (W.getLsbD 8)) :=
  (word_fields_set W).trans (by rw [hhigh, hz, hopc]; rfl)

/-- No bit of a legal word is dropped, and the reserved pair of R109 is not among them. -/
theorem decode_command_encode {i : Instr} (h : decode W = .command i) : i.wellFormed = true ∧ W = encode i := by
  obtain ⟨hz, hopc⟩ := (decode_eq_command W i).1 h
  obtain ⟨hS, h⟩ | ⟨hE, h⟩ | ⟨j, hj, hwf, h⟩ := decodeOpcode_cases _ _ _ hopc
  case inl =>
    obtain ⟨hhigh, hpair, rfl⟩ := (decodeSetup_eq_command W i).1 h
    exact ⟨by simpa [Instr.wellFormed, imp_iff_not_or] using hpair, eq_encode_serialSetup hhigh hz hS⟩
  case inr.inl =>
    obtain ⟨hhigh, rfl⟩ := (decodeSet_eq_command W i).1 h
    exact ⟨rfl, eq_encode_autobaudSet hhigh hz hE⟩
  case inr.inr =>
    obtain ⟨hhigh, rfl⟩ := (decodePlain_eq_command W j i).1 h
    exact ⟨hwf, (eq_plainWord hhigh hz).trans hj.symm⟩

end

/-- The word of a well-formed command decodes to it. -/
theorem decode_encode {i : Instr} (h : i.wellFormed = true) : decode (encode i) = .command i := by
  cases i with
  | serialSetup cp wd par sb => revert cp wd par sb; decide
  | autobaudSet en => revert en; decide
  | initialise | errorGet | read | write | writeByte | readByte | txReady | rxReady | txComplete | autobaudQuery =>
    decide

theorem Parity.code_ne_reserved (p : Parity) : p.code ≠ 0b11#2 := by cases p <;> decide

theorem Machine.lineConfigOfFields_code (nine : Bool) (p : Parity) (two : Bool) :
    Machine.lineConfigOfFields nine p.code two = ⟨if nine then 9 else 8, p, if two then 2 else 1⟩ := by
  cases p <;> rfl

end Sys2Proof

open Sys2Proof

/-- Settles O14: a word that decodes is rebuilt from its fields (`decode_command_encode`), and each command's word is
read back (`decode_encode`). -/
theorem decodeEncodeAgree : Obligations.DecodeEncodeAgree := by
  unfold Obligations.DecodeEncodeAgree
  exact fun W i => ⟨decode_command_encode, fun ⟨hwf, hW⟩ => hW ▸ decode_encode hwf⟩

/-- Settles O17: the line's word is the encoding of a well-formed SERIAL_SETUP, no parity having the reserved code. -/
theorem assembledConfigurationDecodesToItself : Obligations.AssembledConfigurationDecodesToItself := by
  unfold Obligations.AssembledConfigurationDecodesToItself
  intro nine p two baud clk
  have hwf : (Instr.serialSetup true nine p.code two).wellFormed = true := by
    simp [Instr.wellFormed, p.code_ne_reserved]
  exact ⟨p.code, decode_encode hwf, Machine.lineConfigOfFields_code nine p two, rfl, rfl⟩

end

section
/-! PROOF. Buffer memory and the register bus (20_memory.md rules R73, R74, R77, R81 to R84): a unit written and read
back, the CLR, SET and INV writes by their candidate, and what a plain write of MODE, STA, BRG or TXREG answers. -/

namespace Sys2Proof.Machine

/-! ## A unit's bytes (R77) -/

theorem half_bytes (v : Half) : (v.extractLsb' 8 8 ++ v.extractLsb' 0 8 : BitVec (8 + 8)) = v := by
  apply BitVec.eq_of_getLsbD_eq
  intro i hi
  rw [BitVec.getLsbD_append, BitVec.getLsbD_extractLsb', BitVec.getLsbD_extractLsb']
  rcases Nat.lt_or_ge i 8 with h | h
  · simp [h]
  · simp [show ¬i < 8 by omega, show i - 8 < 8 by omega, show 8 + (i - 8) = i by omega]

theorem half_low_byte (v : Half) : (v.extractLsb' 0 8).setWidth 16 = v &&& 0x00FF#16 := by
  apply BitVec.eq_of_getLsbD_eq
  intro i hi
  have hmask : (0x00FF#16).getLsbD i = decide (i < 8) := by interval_cases i <;> rfl
  rw [BitVec.getLsbD_setWidth, BitVec.getLsbD_extractLsb', BitVec.getLsbD_and, hmask]
  simp [hi, Bool.and_comm]

/-- Memory with a unit of `n` bytes written, the low byte at the address. -/
def Memory.writeUnit (m : List Host.Cell) (addr n : Nat) (v : Half) : List Host.Cell :=
  if n = 2 then Memory.write (Memory.write m addr (v.extractLsb' 0 8)) (addr + 1) (v.extractLsb' 8 8)
  else Memory.write m addr (v.extractLsb' 0 8)

section
variable {P : Params} {s t : State} {addr n : Nat} {v : Half}

/-- A performed read is the unit's bytes, little-endian. -/
theorem memRead_ok (h : memCheck P addr n = none) : memRead P addr n s =
    .ok (if n = 2 then Memory.read s.mem (addr + 1) ++ Memory.read s.mem addr
      else (Memory.read s.mem addr).setWidth 16) := by
  unfold memRead; rw [h]

theorem memWrite_ok (h : memCheck P addr n = none) :
    memWrite P addr n v s = .ok { s with mem := Memory.writeUnit s.mem addr n v } := by
  unfold memWrite; rw [h]; rfl

theorem memWrite_frame (h : memWrite P addr n v s = .ok t) : t = { s with mem := t.mem } := by
  obtain ⟨m, rfl, -, -⟩ := memWrite_cases P s addr n v t h
  rfl

theorem memWrite_memCheck (h : memWrite P addr n v s = .ok t) : memCheck P addr n = none := by
  obtain ⟨-, -, hcheck, -⟩ := memWrite_cases P s addr n v t h
  exact hcheck

section
variable (hn : n = 1 ∨ n = 2) (hwf : Memory.wf s.mem) (h : memWrite P addr n v s = .ok t)
include hwf h

include hn in
theorem memWrite_read_low : Memory.read t.mem addr = v.extractLsb' 0 8 := by
  obtain ⟨m, rfl, -, rfl⟩ := memWrite_cases P s addr n v t h
  obtain rfl | rfl := hn
  · exact Memory.read_write_same _ _ _ hwf.1
  · exact (Memory.read_write_other _ _ (by omega)).trans (Memory.read_write_same _ _ _ hwf.1)

theorem memWrite_read_high (hn : n = 2) : Memory.read t.mem (addr + 1) = v.extractLsb' 8 8 := by
  obtain ⟨m, rfl, hcheck, rfl⟩ := memWrite_cases P s addr n v t h
  subst hn
  have haddr := ((memCheck_none_iff P addr 2).1 hcheck).2.1
  exact Memory.read_write_same _ _ _ (Memory.write_wf _ _ _ (by omega) hwf).1

include hn in
/-- The unit written is the unit read: all of it, or its low byte. -/
theorem memRead_memWrite : memRead P addr n t = .ok (if n = 2 then v else v &&& 0x00FF#16) := by
  rw [memRead_ok (memWrite_memCheck h), memWrite_read_low hn hwf h]
  obtain rfl | rfl := hn
  · exact congrArg Except.ok (half_low_byte v)
  · rw [memWrite_read_high hwf h rfl]
    exact congrArg Except.ok (half_bytes v)

end

end

/-! ## MODE and BRG writes (R83) -/

theorem writeMode_performed (P : Params) {s : State} {new : Half} (h : modeCheck s.mode new = none) :
    ∃ t, writeMode P new s = .ok t ∧ t.mode = new := by
  refine ⟨if modeOn s.mode = true ∧ modeOn new = false then disableEffect P { s with mode := new }
    else { s with mode := new }, by unfold writeMode; rw [h], ?_⟩
  split <;> simp

theorem regWrite_brg_on (P : Params) {s : State} (v : Word) (hon : modeOn s.mode = true) :
    regWrite P .brg v s = .error .liveReconfig := if_pos hon

/-! ## STA writes (R81, R82) -/

/-- A STA write looks at no bit 4 of its candidate: RIDLE is stored nowhere. -/
theorem writeSta_congr (P : Params) (s : State) {c c' : Word} (h : ∀ i, i ≠ 4 → c.getLsbD i = c'.getLsbD i) :
    writeSta P c s = writeSta P c' s := by
  have hHi : c.extractLsb' 13 12 = c'.extractLsb' 13 12 := by
    apply BitVec.eq_of_getLsbD_eq
    intro i _
    rw [BitVec.getLsbD_extractLsb', BitVec.getLsbD_extractLsb', h (13 + i) (by omega)]
  have hLo : c.extractLsb' 5 3 = c'.extractLsb' 5 3 := by
    apply BitVec.eq_of_getLsbD_eq
    intro i _
    rw [BitVec.getLsbD_extractLsb', BitVec.getLsbD_extractLsb', h (5 + i) (by omega)]
  unfold writeSta
  rw [hHi, hLo, h 1 (by decide), h 10 (by decide), h 11 (by decide), h 12 (by decide)]

/-- The drawn RIDLE is bit 4 of STA's image and no other. -/
theorem staImage_getLsbD_ridle (P : Params) (s : State) (r r' : Bool) {i : Nat} (hi : i ≠ 4) :
    (staImage P s r).getLsbD i = (staImage P s r').getLsbD i := by
  rw [staImage_getLsbD, staImage_getLsbD, if_neg hi, if_neg hi]

/-- WMASK_STA's bits are read back as they were written (R81). -/
theorem staImage_writeSta (P : Params) (s : State) (v : Word) (ridle : Bool) :
    staImage P (writeSta P v s) ridle &&& 0x01FFFCE0#32 = v &&& 0x01FFFCE0#32 := by
  apply BitVec.eq_of_getLsbD_eq
  intro i hi
  rw [BitVec.getLsbD_and, BitVec.getLsbD_and, staImage_getLsbD, writeSta_staLo, writeSta_staHi]
  interval_cases i <;> simp

end Sys2Proof.Machine

open Sys2Proof Sys2Proof.Machine

/-- Settles O22: the bytes written are read back by `Memory.read_write_same`, so the unit is, and no other byte
moves. -/
theorem bufferWriteThenRead : Obligations.BufferWriteThenRead := by
  unfold Obligations.BufferWriteThenRead
  intro P s t addr n v hn hwf h
  exact ⟨memWrite_read_low hn hwf h, memWrite_read_high hwf h, memRead_memWrite hn hwf h,
    memWrite_other P s addr n v t hn h, memWrite_frame h⟩

/-- Settles O24: MODE's candidates are the same terms; STA's differ at most in RIDLE, which `writeSta_congr` says is
not looked at. -/
theorem aliasWritesArePlainWritesOfTheirCandidate : Obligations.AliasWritesArePlainWritesOfTheirCandidate := by
  unfold Obligations.AliasWritesArePlainWritesOfTheirCandidate
  intro P s v ridle
  have hsta {c c' : Word} (h : ∀ i, i ≠ 4 → c.getLsbD i = c'.getLsbD i) :
      Except.ok (ε := FaultKind) (writeSta P c s) = .ok (writeSta P c' s) := congrArg _ (writeSta_congr P s h)
  have hold {i : Nat} (hi : i ≠ 4) := staImage_getLsbD_ridle P s false ridle hi
  refine ⟨rfl, rfl, rfl, hsta fun i hi => ?clr, hsta fun i hi => ?set, hsta fun i hi => ?inv⟩
  case clr => rw [BitVec.getLsbD_and, BitVec.getLsbD_and, staOld, hold hi]
  case set => rw [BitVec.getLsbD_or, BitVec.getLsbD_or, staOld, hold hi]
  case inv => rw [BitVec.getLsbD_xor, BitVec.getLsbD_xor, staOld, hold hi]

/-- Settles O25: the write is `writeSta`, which stores WMASK_STA's bits; RXF moves only where OERR was cleared. -/
theorem statusWritesStoreOnlyWritableBits : Obligations.StatusWritesStoreOnlyWritableBits := by
  unfold Obligations.StatusWritesStoreOnlyWritableBits
  intro P s t v ridle h
  obtain rfl : writeSta P v s = t := Except.ok.inj h
  refine ⟨staImage_writeSta P s v ridle, writeSta_oerr P s v, writeSta_mode P s v, writeSta_brg P s v,
    writeSta_txf P s v, writeSta_tsr P s v, writeSta_lineOut P s v, ?rxf⟩
  case rxf =>
    by_cases hkeep : s.oerr = true → v.getLsbD 1 = true
    · exact .inl (writeSta_rxf_keep P s v hkeep).1
    · obtain ⟨hoerr, hbit⟩ := Classical.not_imp.1 hkeep
      refine (writeSta_rxf P s v).imp_right fun ⟨_, hempty⟩ => ⟨hempty, hoerr, ?_⟩
      rw [writeSta_oerr, eq_false_of_ne_true hbit, Bool.and_false]

/-- Settles O26: the two conditions are `modeCheck`'s, in its order, and BRG's is ON. -/
theorem modeAndDivisorWriteChecks : Obligations.ModeAndDivisorWriteChecks := by
  unfold Obligations.ModeAndDivisorWriteChecks
  intro P s v
  refine ⟨fun hclears => ?cleared, fun hkeeps hlive => ?live, fun hkeeps hstill => ?performed,
    regWrite_brg_on P v, fun hoff => ?brg⟩
  case cleared => exact writeMode_error P s _ _ (if_pos hclears)
  case live => exact writeMode_error P s _ _ ((if_neg hkeeps).trans (if_pos hlive))
  case performed => exact writeMode_performed P ((if_neg hkeeps).trans (if_neg hstill))
  case brg => exact if_neg (by simp [hoff])

/-- Settles O27: a full FIFO refuses the write; otherwise TXREG keeps `keptUnit` of it. -/
theorem transmitRegisterWriteAppendsOrFaults : Obligations.TransmitRegisterWriteAppendsOrFaults := by
  unfold Obligations.TransmitRegisterWriteAppendsOrFaults
  exact fun P s v => ⟨regWrite_txreg_full P s v, regWrite_txreg_room P s v⟩

end

section
/-! PROOF. The host's reads and memory writes and the line side's events (10_state.md rules R25 to R29, 60_exceptions.md
rules R200 to R203, R212): what each offset reads, which bytes a transfer owns, and each event by its guard and its
effect. -/

namespace Sys2Proof.Machine

/-! ## The host's port (R25, R27, R29) -/

section
variable (s : State)

theorem statReg_eq : statReg s = if s.ph = .idle then 0 else if s.ph = .faulted then 3 else 1 := by
  unfold statReg busy faultedFlag
  split_ifs with hidle hfaulted
  · rw [hidle]; rfl
  · rw [hfaulted]; rfl
  · rw [beq_false_of_ne hfaulted, bne_iff_ne.2 hidle]; rfl

theorem hostRead_stat : hostRead offStat s = statReg s := rfl

theorem hostRead_other {off : Nat} (h : off ∉ [0x00, 0x04, 0x08, 0x0C, 0x10, 0x14, 0x18]) : hostRead off s = 0 := by
  simp only [List.mem_cons, List.not_mem_nil, or_false, not_or] at h
  obtain ⟨hcmd, hopa, hopb, hres, hstat, hfault, hxcnt⟩ := h
  unfold hostRead offCmd offOpa offOpb offRes offStat offFault offXcnt
  rw [if_neg hcmd, if_neg hopa, if_neg hopb, if_neg hres, if_neg hstat, if_neg hfault, if_neg hxcnt]

/-- Of the offsets only CMD's, OPA's and OPB's can be written. -/
theorem hostWrite_other {off : Nat} (v : Word) (h : off ∉ [0x00, 0x04, 0x08]) : hostWrite off v s = s := by
  simp only [List.mem_cons, List.not_mem_nil, or_false, not_or] at h
  obtain ⟨hcmd, hopa, hopb⟩ := h
  unfold hostWrite offCmd offOpa offOpb
  rw [if_neg hcmd, if_neg hopa, if_neg hopb]

end

/-! ## The buffer of a transfer in progress (R212) -/

theorem widthUnsampled_iff (ph : Phase) :
    widthUnsampled ph = true ↔ ph ∈ [.r0, .r1, .ec1, .ec2, .ec3, .ec4, .r2, .w0, .w1] := by
  cases ph <;> decide

theorem ownedByTransfer_iff (s : State) (a : Nat) :
    ownedByTransfer s a = true ↔ s.ph ≠ .idle ∧ s.ph ≠ .faulted ∧
      (decode s.cmdL = .command .read ∨ decode s.cmdL = .command .write) ∧ s.opaL.toNat ≤ a ∧
      a < s.opaL.toNat +
        (if s.ph ∈ [.r0, .r1, .ec1, .ec2, .ec3, .ec4, .r2, .w0, .w1] then 2 else s.w.toNat) * s.opbL.toNat := by
  unfold ownedByTransfer inBuffer
  simp only [Bool.and_eq_true, Bool.or_eq_true, bne_iff_ne, beq_iff_eq, decide_eq_true_eq, widthUnsampled_iff,
    and_assoc]

theorem takeTurn_writeMem (addr : Word) (v : Byte) (s : State) :
    takeTurn (.host (.writeMem addr v)) s = .next (hostWriteMem addr v s) := rfl

theorem hostWriteMem_owned {addr : Word} (v : Byte) {s : State} (h : ownedByTransfer s addr.toNat = true) :
    hostWriteMem addr v s = raise .hostBufferWrite { s with mem := Memory.write s.mem addr.toNat v } := if_pos h

theorem hostWriteMem_free {addr : Word} (v : Byte) {s : State} (h : ¬ownedByTransfer s addr.toNat = true) :
    hostWriteMem addr v s = { s with mem := Memory.write s.mem addr.toNat v } := if_neg h

/-! ## The line side's events (R200-R203) -/

section
variable (P : Params) {s : State}

theorem lineTurn_enabled {e : LineEvent} (h : lineEnabled P e s = true) : lineTurn P e s = lineEffect P e s := if_pos h

theorem lineTurn_disabled {e : LineEvent} (h : ¬lineEnabled P e s = true) : lineTurn P e s = s := if_neg h

theorem lineEnabled_rx_iff (data : Unit9) (fe pe : Bool) : lineEnabled P (.rx data fe pe) s = true ↔
    modeOn s.mode = true ∧ s.urxen = true ∧ s.oerr = false := by
  simp [and_assoc]

theorem lineEnabled_load_iff : lineEnabled P .load s = true ↔
    modeOn s.mode = true ∧ s.utxen = true ∧ s.tsr = none ∧ s.txf ≠ [] := by
  simp [lineEnabled, and_assoc]

theorem lineEnabled_done_iff : lineEnabled P .done s = true ↔ s.tsr ≠ none := by
  simp [lineEnabled, Option.isSome_iff_ne_none]

theorem lineEnabled_autobaud_iff (v : Half) : lineEnabled P (.autobaud v) s = true ↔
    P.autobaudHw = true ∧ modeOn s.mode = true ∧ modeAbaud s.mode = true := by
  simp [lineEnabled, and_assoc]

theorem unit9_low_byte (data : Unit9) : (data.extractLsb' 0 8).setWidth 9 = data &&& 0x0FF#9 := by
  revert data; decide

theorem receivedUnit_eq (mode : Half) (data : Unit9) (fe pe : Bool) : receivedUnit mode data fe pe =
    ⟨if modePdsel mode = 0b11#2 then data else data &&& 0x0FF#9, fe,
      if modePdsel mode = 0b00#2 ∨ modePdsel mode = 0b11#2 then false else pe⟩ := by
  unfold receivedUnit; rw [unit9_low_byte]

theorem transmitLoad_cons {u : Unit9} {rest : List Unit9} (h : s.txf = u :: rest) : transmitLoad s = { s with
    txf := rest, tsr := some ⟨u, modePdsel s.mode, modeStsel s.mode, modeBrgh s.mode, s.brg⟩ } := by
  unfold transmitLoad; rw [h]

theorem transmitDone_some {u : TxRecord} (h : s.tsr = some u) :
    transmitDone s = { s with lineOut := s.lineOut ++ [u], tsr := none } := by
  unfold transmitDone; rw [h]

theorem autobaudComplete_eq (v : Half) (s : State) :
    autobaudComplete v s = { s with brg := v, mode := s.mode &&& 0xFFDF#16 } := rfl

end

end Sys2Proof.Machine

open Sys2Proof.Machine

/-- Settles O20: each offset is the register it names; every offset outside the list reads 0 and takes no write. -/
theorem hostPortReadsAndWrites : Obligations.HostPortReadsAndWrites := by
  unfold Obligations.HostPortReadsAndWrites
  intro s
  refine ⟨rfl, rfl, rfl, rfl, ?stat, rfl, rfl, fun off => hostRead_other s, fun off => takeTurn_readPort off s,
    fun v => rfl, fun v => rfl, fun off v hoff => ?other⟩
  case stat => exact (hostRead_stat s).trans (statReg_eq s)
  case other => rw [takeTurn_writePort, hostWrite_other s v hoff]

/-- Settles O21: the condition is `ownedByTransfer_iff`; the write is performed under it and outside it, and under it
raises the fault. -/
theorem hostWriteIntoOwnedBufferFaults : Obligations.HostWriteIntoOwnedBufferFaults := by
  unfold Obligations.HostWriteIntoOwnedBufferFaults
  intro s addr v
  dsimp only
  rw [← ownedByTransfer_iff, takeTurn_writeMem]
  refine ⟨fun howned => ?owned, fun hfree => ?free, rfl⟩
  case owned => rw [hostWriteMem_owned v howned]; rfl
  case free => rw [hostWriteMem_free v hfree]

/-- Settles O30: under its guard the event is `receive` of the unit as it enters the FIFO. -/
theorem receiveEventFillsFifoOrOverruns : Obligations.ReceiveEventFillsFifoOrOverruns := by
  unfold Obligations.ReceiveEventFillsFifoOrOverruns
  intro P s data fe pe
  dsimp only
  rw [← receivedUnit_eq]
  exact if_congr (lineEnabled_rx_iff P data fe pe) rfl rfl

/-- Settles O31: the guard asks for a unit in TXF, and `transmitLoad` moves the first. -/
theorem transmitLoadRecordsConfiguration : Obligations.TransmitLoadRecordsConfiguration := by
  unfold Obligations.TransmitLoadRecordsConfiguration
  refine fun P s => ⟨fun u rest hcons hon hutxen htsr => ?enabled, fun hguard => ?disabled⟩
  case enabled =>
    have hguard := (lineEnabled_load_iff P).2 ⟨hon, hutxen, htsr, by simp [hcons]⟩
    exact (lineTurn_enabled P hguard).trans (transmitLoad_cons hcons)
  case disabled => exact lineTurn_disabled P (mt (lineEnabled_load_iff P).1 hguard)

/-- Settles O32: the guard is a unit in TSR and nothing else. -/
theorem transmitDoneAppendsToLine : Obligations.TransmitDoneAppendsToLine := by
  unfold Obligations.TransmitDoneAppendsToLine
  refine fun P s => ⟨fun u hunit => ?enabled, fun hidle => ?disabled⟩
  case enabled =>
    exact (lineTurn_enabled P ((lineEnabled_done_iff P).2 (by simp [hunit]))).trans (transmitDone_some hunit)
  case disabled => exact lineTurn_disabled P fun h => (lineEnabled_done_iff P).1 h hidle

/-- Settles O33: completion is no register write, so no check of R83 stands in its way; the receive guard does not
look at ABAUD. -/
theorem autobaudCompletionSetsDivisorClearsBit : Obligations.AutobaudCompletionSetsDivisorClearsBit := by
  unfold Obligations.AutobaudCompletionSetsDivisorClearsBit
  refine fun P s v => ⟨fun hhw hon habaud => ?enabled, fun hguard => ?disabled,
    fun data fe pe _ hon hurxen hoerr => ?receive⟩
  case enabled =>
    rw [lineTurn_enabled P ((lineEnabled_autobaud_iff P v).2 ⟨hhw, hon, habaud⟩), ← autobaudComplete_eq]
    rfl
  case disabled => exact lineTurn_disabled P (mt (lineEnabled_autobaud_iff P v).1 hguard)
  case receive => exact (lineEnabled_rx_iff P data fe pe).2 ⟨hon, hurxen, hoerr⟩

end

section
/-! PROOF. SERIAL_SETUP (40_configuration.md rules R121 to R127): each label by the state it leaves, the MODE image its
writes make, and the fields read back from it. -/

namespace Sys2Proof.Machine

/-! ## The image S.5, S.7 and S.9 leave in MODE (R122) -/

theorem not_mOn_setWidth : ~~~(mOn.setWidth 16 : Half) = 0x7FFF#16 := by decide

@[simp] theorem modeOn_modeImage (s : State) : modeOn (modeImage s) = modeOn s.mode := by
  simp [modeOn, modeImage]

theorem modeOn_and_not_mOn (m : Half) : modeOn (m &&& 0x7FFF#16) = false := by
  rw [modeOn_and]; exact Bool.and_false _

theorem modeAbaud_not_mOn : modeAbaud (0x7FFF#16) = true := by decide

/-- MODE after S.5 has cleared ON, S.7 has replaced PDSEL and STSEL, and S.9 has set ON. -/
def reprogrammedMode (m : Half) (wd : Bool) (par : BitVec 2) (sb : Bool) : Half :=
  (setupMode ((m &&& 0x7FFF#16).setWidth 32) wd par sb).setWidth 16 ||| 0x8000#16

section
variable (m : Half) (wd : Bool) (par : BitVec 2) (sb : Bool)

@[simp] theorem reprogrammedMode_pdsel : modePdsel (reprogrammedMode m wd par sb) = pdselNew wd par := by
  have hmask : modePdsel (0x8000#16) = 0#2 := by decide
  rw [reprogrammedMode, modePdsel_or, setupMode_pdsel, hmask, BitVec.or_zero]

@[simp] theorem reprogrammedMode_stsel : modeStsel (reprogrammedMode m wd par sb) = sb := by
  have hmask : modeStsel (0x8000#16) = false := by decide
  rw [reprogrammedMode, modeStsel_or, setupMode_stsel, hmask, Bool.or_false]

@[simp] theorem reprogrammedMode_on : modeOn (reprogrammedMode m wd par sb) = true := by
  rw [reprogrammedMode, modeOn_or]; exact Bool.or_true _

/-- Every bit but ON, PDSEL and STSEL is as it was. -/
theorem reprogrammedMode_getLsbD {i : Nat} (hi : 3 ≤ i) (hon : i ≠ 15) :
    (reprogrammedMode m wd par sb).getLsbD i = m.getLsbD i := by
  rcases Nat.lt_or_ge i 16 with h | h
  · rw [reprogrammedMode, BitVec.getLsbD_or, BitVec.getLsbD_setWidth, setupMode_getLsbD _ _ _ _ _ (by omega),
      if_neg (by omega), if_neg (by omega), if_neg (by omega), BitVec.getLsbD_setWidth, BitVec.getLsbD_and]
    interval_cases i <;> simp at hon ⊢
  · rw [BitVec.getLsbD_of_ge _ _ h, BitVec.getLsbD_of_ge _ _ h]

end

/-! ## The writes (R82, R83, R85) -/

section
variable (P : Params) (s : State)

/-- S.5's write is performed in every mode: ABAUD is kept, and with ON = 0 after it nothing is live. -/
theorem regWrite_modeClr_on : regWrite P .modeClr mOn s =
    .ok (if modeOn s.mode = true then disableEffect P { s with mode := s.mode &&& 0x7FFF#16 }
      else { s with mode := s.mode &&& 0x7FFF#16 }) := by
  have hcandidate : regWrite P .modeClr mOn s = writeMode P (s.mode &&& 0x7FFF#16) s := by
    rw [← not_mOn_setWidth, ← modeImage_and_not]; rfl
  rw [hcandidate]
  have hoff := modeOn_and_not_mOn s.mode
  split_ifs with hon
  · exact writeMode_disable P s _ hon hoff fun ha => by rw [modeAbaud_and, ha, modeAbaud_not_mOn]; rfl
  · exact writeMode_off P s _ (eq_false_of_ne_true hon)

theorem keepBits_staHi (tx brk rx : Bool) : (keepBits tx brk rx).extractLsb' 13 12 = 0 := by
  revert tx brk rx; decide

theorem keepBits_staLo (tx brk rx : Bool) : (keepBits tx brk rx).extractLsb' 5 3 = 0 := by
  revert tx brk rx; decide

/-- S.10's write of the snapshot sets the enables the snapshot holds. -/
theorem regWrite_staSet_keepBits {v : Word} {tx brk rx : Bool} (h : v = keepBits tx brk rx) :
    regWrite P .staSet v s = .ok { s with
      urxen := s.urxen || rx, utxbrk := s.utxbrk || brk, utxen := s.utxen || tx } := by
  rw [h, regWrite_staSet, keepBits_staHi, keepBits_staLo]
  simp

end

/-! ## The divisor (R123) -/

theorem baudDiv_eq (clk baud : Nat) : baudDiv clk baud =
    (decide (1 ≤ (clk / 4 + baud / 2) / baud ∧ (clk / 4 + baud / 2) / baud ≤ 65536),
      (((clk / 4 + baud / 2) / baud : Nat) : Int) - 1) := by
  change (decide (_ ∧ _), _) = _
  rw [Prod.mk.injEq, decide_eq_decide]
  refine ⟨?_, rfl⟩
  change 0 ≤ (((clk / 4 + baud / 2) / baud : Nat) : Int) - 1 ∧
    (((clk / 4 + baud / 2) / baud : Nat) : Int) - 1 ≤ ((65535 : Nat) : Int) ↔ _
  omega

theorem ofInt_pred {q : Nat} (h : 1 ≤ q) : BitVec.ofInt 16 ((q : Int) - 1) = BitVec.ofNat 16 (q - 1) := by
  rw [show (q : Int) - 1 = ((q - 1 : Nat) : Int) by omega, BitVec.ofInt_natCast]

theorem setupDivisor_eq (s : State) : setupDivisor s =
    if 1 ≤ (s.clk.toNat / 4 + s.opaL.toNat / 2) / s.opaL.toNat ∧
        (s.clk.toNat / 4 + s.opaL.toNat / 2) / s.opaL.toNat ≤ 65536 then
      { s with d := BitVec.ofNat 16 ((s.clk.toNat / 4 + s.opaL.toNat / 2) / s.opaL.toNat - 1), ph := .s4 }
    else finish .fail .baudUnattainable 0 s := by
  unfold setupDivisor
  rw [baudDiv_eq]
  generalize (s.clk.toNat / 4 + s.opaL.toNat / 2) / s.opaL.toNat = q
  split_ifs with hrange
  · rw [decide_eq_true hrange, ← ofInt_pred hrange.1]
  · rw [decide_eq_false hrange]

/-! ## The labels (R122) -/

theorem setupValidate_eq (cp wd : Bool) (par : BitVec 2) (s : State) : setupValidate cp wd par s =
    if cp = false then finish .fail .invalidConfig 0 s
    else if s.opaL = 0 ∨ (wd = true ∧ par ≠ 0b00#2) then finish .fail .invalidCombination 0 s
    else if s.opbL = 0 then { s with clk := 0, ph := .s2 } else { s with clk := s.opbL, ph := .s3 } := by
  unfold setupValidate
  by_cases hclk : s.opbL = 0
  · simp only [hclk, ne_eq, not_true_eq_false, if_true, if_false]
  · simp only [hclk, ne_eq, not_false_eq_true, if_true, if_false]

section
variable {cp wd : Bool} {par : BitVec 2} {sb : Bool} {s : State}
  (hwf : (Instr.serialSetup cp wd par sb).wellFormed = true)
include hwf

theorem exec_serialSetup_s2 (h : s.ph = .s2) :
    exec (.serialSetup cp wd par sb) s = .next { s with clk := Config.params.clkDefault, ph := .s3 } := by
  simp [exec, execSerialSetup, serialSetupStep, hwf, h, clockQuery]

theorem exec_serialSetup_s3 (h : s.ph = .s3) (hbaud : s.opaL ≠ 0) :
    exec (.serialSetup cp wd par sb) s = .next (setupDivisor s) := by
  change serialSetupStep _ cp wd par sb s = _
  unfold serialSetupStep
  rw [if_neg (by simp [hwf]), h]
  exact if_neg hbaud

theorem exec_serialSetup_s4 (h : s.ph = .s4) : exec (.serialSetup cp wd par sb) s =
    .next { s with snap := keepBits s.utxen s.utxbrk s.urxen, draws := s.draws + 1, ph := .s5 } := by
  simp [exec, execSerialSetup, serialSetupStep, hwf, h, staImage_and_sKeep, drawn]

theorem exec_serialSetup_s5 (h : s.ph = .s5) : exec (.serialSetup cp wd par sb) s = .next
    { (if modeOn s.mode = true then disableEffect Config.params { s with mode := s.mode &&& 0x7FFF#16 }
        else { s with mode := s.mode &&& 0x7FFF#16 }) with ph := .s6 } := by
  simp [exec, execSerialSetup, serialSetupStep, hwf, h, regWrite_modeClr_on]

theorem exec_serialSetup_s6 (h : s.ph = .s6) :
    exec (.serialSetup cp wd par sb) s = .next { s with t := modeImage s, ph := .s7 } := by
  simp [exec, execSerialSetup, serialSetupStep, hwf, h]

theorem exec_serialSetup_s7 (h : s.ph = .s7) (hoff : modeOn s.mode = false) : exec (.serialSetup cp wd par sb) s =
    .next { s with mode := (setupMode s.t wd par sb).setWidth 16, ph := .s8 } := by
  simp [exec, execSerialSetup, serialSetupStep, hwf, h, regWrite, writeMode_off _ s _ hoff]

theorem exec_serialSetup_s8 (h : s.ph = .s8) (hoff : modeOn s.mode = false) :
    exec (.serialSetup cp wd par sb) s = .next { s with brg := s.d, ph := .s9 } := by
  simp [exec, execSerialSetup, serialSetupStep, hwf, h, regWrite_brg_off _ s _ hoff]

theorem exec_serialSetup_s9 (h : s.ph = .s9) (hoff : modeOn s.mode = false) :
    exec (.serialSetup cp wd par sb) s = .next { s with mode := s.mode ||| 0x8000#16, ph := .s10 } := by
  simp [exec, execSerialSetup, serialSetupStep, hwf, h, regWrite_modeSet_on_off _ s hoff]

theorem exec_serialSetup_s10 (h : s.ph = .s10) : exec (.serialSetup cp wd par sb) s =
    .next (afterAccess s (regWrite Config.params .staSet s.snap s) (finish .ok .none 0)) := by
  simp [exec, execSerialSetup, serialSetupStep, hwf, h]

theorem exec_serialSetup_s10_keepBits (h : s.ph = .s10) {tx brk rx : Bool} (hsnap : s.snap = keepBits tx brk rx) :
    exec (.serialSetup cp wd par sb) s = .next { s with
      ph := .idle, res := 0x00000001#32
      urxen := s.urxen || rx, utxbrk := s.utxbrk || brk, utxen := s.utxen || tx } := by
  rw [exec_serialSetup_s10 hwf h, regWrite_staSet_keepBits _ s hsnap]
  rfl

end

/-- The state SERIAL_SETUP's labels S.6 to S.10 leave of the state `u` after S.5's write, by the image `m` they leave in
MODE and the enables `tx`, `brk`, `rx` the snapshot holds. -/
def reprogrammed (u : State) (m : Half) (tx brk rx : Bool) : State :=
  { u with
    ph := .idle, res := 0x00000001#32, mode := m, brg := u.d, t := modeImage u
    urxen := u.urxen || rx, utxbrk := u.utxbrk || brk, utxen := u.utxen || tx }

end Sys2Proof.Machine

open Sys2Proof Sys2Proof.Machine

/-- Settles O35: the step is `setupValidate`, whose conditions stand in this order. -/
theorem setupValidationInOrder : Obligations.SetupValidationInOrder := by
  unfold Obligations.SetupValidationInOrder
  intro s cp wd par sb hph hwf
  rw [exec_serialSetup_s1 cp wd par sb s hwf hph, setupValidate_eq]
  rfl

/-- Settles O36: S.2 asks the clock port, and S.3's divisor is in range exactly when the quotient is 1 to 65536. -/
theorem setupResolvesClockAndDivisor : Obligations.SetupResolvesClockAndDivisor := by
  unfold Obligations.SetupResolvesClockAndDivisor
  refine fun s cp wd par sb hwf => ⟨exec_serialSetup_s2 hwf, fun hph hbaud => ?divisor⟩
  case divisor =>
    rw [exec_serialSetup_s3 hwf hph hbaud, setupDivisor_eq]
    rfl

/-- Settles O37: after S.5 ON is 0, so each later write is performed; what was on is flushed or kept by S.5's disable
effect alone, and S.10 sets again the enables S.4 has kept. -/
theorem setupReprogramsAndPreservesEnables : Obligations.SetupReprogramsAndPreservesEnables := by
  unfold Obligations.SetupReprogramsAndPreservesEnables
  intro s wd par sb hph hpar
  have hwf : (Instr.serialSetup true wd par sb).wellFormed = true := by simp [Instr.wellFormed, hpar]
  have hs5 := exec_serialSetup_s5 (s := { s with
    snap := keepBits s.utxen s.utxbrk s.urxen, draws := s.draws + 1, ph := .s5 }) hwf rfl
  generalize hu : (if modeOn s.mode = true then _ else _) = u at hs5
  have hmode : u.mode = s.mode &&& 0x7FFF#16 := by rw [← hu]; split_ifs <;> simp
  have hsnap : u.snap = keepBits s.utxen s.utxbrk s.urxen := by rw [← hu]; split_ifs <;> simp
  have hoff : modeOn u.mode = false := by rw [hmode, modeOn_and_not_mOn]
  have hoff7 : modeOn ((setupMode (modeImage u) wd par sb).setWidth 16) = false := by
    rw [setupMode_on, modeOn_modeImage, hoff]
  have hfinal : (setupMode (modeImage u) wd par sb).setWidth 16 ||| 0x8000#16 =
      reprogrammedMode s.mode wd par sb := by rw [modeImage, hmode, reprogrammedMode]
  refine ⟨_, _, _, _, _, _, reprogrammed u (reprogrammedMode s.mode wd par sb) s.utxen s.utxbrk s.urxen,
    exec_serialSetup_s4 hwf hph, hs5, exec_serialSetup_s6 hwf rfl, exec_serialSetup_s7 hwf rfl hoff,
    exec_serialSetup_s8 hwf rfl hoff7, exec_serialSetup_s9 hwf rfl hoff7, ?last, hoff, hoff7,
    reprogrammedMode_pdsel .., reprogrammedMode_stsel .., reprogrammedMode_on ..,
    fun i hi hon => reprogrammedMode_getLsbD _ _ _ _ hi hon, ?frame, ?choice⟩
  case last =>
    rw [← hfinal]
    exact exec_serialSetup_s10_keepBits hwf rfl hsnap
  case frame =>
    rw [← hu]
    split_ifs <;> simp [reprogrammed]
  case choice =>
    by_cases hon : modeOn s.mode = true
    · rw [if_pos hon] at hu
      rw [← hu]
      exact (disableEffect_flush Config.params _).imp_right fun hempty => ⟨hon, hempty⟩
    · rw [if_neg hon] at hu
      rw [← hu]
      exact .inl ⟨rfl, rfl, rfl, rfl⟩

/-- Settles O39: S.7's image has the PDSEL and STSEL the fields ask for, and 9 data bits come with no parity. -/
theorem configurationReadsBack : Obligations.ConfigurationReadsBack := by
  unfold Obligations.ConfigurationReadsBack
  intro t wd par sb hpar hnine
  unfold lineConfigOf lineConfigOfFields
  rw [setupMode_pdsel, setupMode_stsel]
  cases wd with
  | true => rw [hnine rfl]; rfl
  | false => simp [pdselNew, hpar]

end

section
/-! PROOF. ERROR_GET (41_error_recovery.md rules R140 to R142): a command running alone as a path of steps, G.1 by the
flags it reads, and the path from ErrorClear's first label to the drained receiver. -/

namespace Sys2Proof.Safety

open Sys2Proof.Machine

/-! ## Steps of one meaning, one after another -/

section
variable {meaning : State → Host.Outcome State Fault Refusal} {s t u : State} {m n : Nat}

theorem runSteps_succ (h : meaning s = .next u) : runSteps meaning (n + 1) s = runSteps meaning n u := by
  simp only [runSteps, h]

theorem runSteps_add (h : runSteps meaning m s = .next u) (h' : runSteps meaning n u = .next t) :
    runSteps meaning (m + n) s = .next t := by
  induction m generalizing s with
  | zero => cases h; rwa [Nat.zero_add]
  | succ m ih =>
    rw [Nat.add_right_comm]
    cases hs : meaning s with
    | next v =>
      rw [runSteps_succ hs] at h ⊢
      exact ih h
    | fault | refused => simp only [runSteps, hs] at h; cases h

variable (meaning s t) in
/-- Some number of steps of the meaning leads from `s` to `t`. -/
def Reaches : Prop := ∃ n, runSteps meaning n s = .next t

theorem Reaches.refl : Reaches meaning s s := ⟨0, rfl⟩

theorem Reaches.head (h : meaning s = .next u) : Reaches meaning u t → Reaches meaning s t :=
  fun ⟨n, hn⟩ => ⟨n + 1, (runSteps_succ h).trans hn⟩

theorem Reaches.trans : Reaches meaning s u → Reaches meaning u t → Reaches meaning s t :=
  fun ⟨_, hm⟩ ⟨_, hn⟩ => ⟨_, runSteps_add hm hn⟩

end

end Sys2Proof.Safety

namespace Sys2Proof.Machine

open Sys2Proof.Safety

/-! ## The error flags -/

section
variable (P : Params) (s : State)

theorem ferr_of_empty (h : s.rxf = []) : ferr P s = false := by
  unfold ferr; rw [h]; cases P.errView <;> rfl

theorem perr_of_empty (h : s.rxf = []) : perr P s = false := by
  unfold perr; rw [h]; cases P.errView <;> rfl

/-- The test of the three error flags in STA's image (R140, R150). -/
theorem staImage_and_sErr_eq_zero_iff (r : Bool) :
    staImage P s r &&& sErr = 0 ↔ s.oerr = false ∧ ferr P s = false ∧ perr P s = false := by
  rw [staImage_and_sErr, errBits_eq_zero]

theorem errBits_setWidth (oe fe pe : Bool) : (errBits oe fe pe).setWidth 16 =
    (0#12 ++ BitVec.ofBool pe ++ BitVec.ofBool fe ++ BitVec.ofBool oe ++ 0#1 : BitVec (12 + 1 + 1 + 1 + 1)) := by
  revert oe fe pe; decide

/-! ## G.1 and G.2 (R140) -/

theorem errorGetQuery_of_clean (h : s.oerr = false ∧ ferr P s = false ∧ perr P s = false) : errorGetQuery P s = { s with
    ph := .idle, res := 0x00000001#32, e := 0, t := staImage P s (P.drawRidle s.draws), draws := s.draws + 1 } := by
  have hzero := (staImage_and_sErr_eq_zero_iff P s (P.drawRidle s.draws)).2 h
  unfold errorGetQuery
  rw [regRead_sta, afterRead_mk, if_pos hzero, hzero]
  rfl

theorem errorGetQuery_of_error (h : ¬(s.oerr = false ∧ ferr P s = false ∧ perr P s = false)) :
    errorGetQuery P s = { s with
      ph := .ec1, e := errBits s.oerr (ferr P s) (perr P s)
      t := staImage P s (P.drawRidle s.draws), draws := s.draws + 1 } := by
  have hne := mt (staImage_and_sErr_eq_zero_iff P s (P.drawRidle s.draws)).1 h
  unfold errorGetQuery
  rw [regRead_sta, afterRead_mk, if_neg hne, staImage_and_sErr]
  rfl

end

section
variable {s : State}

theorem exec_errorGet_g1 (h : s.ph = .g1) : exec .errorGet s = .next (errorGetQuery Config.params s) := by
  simp [exec, execErrorGet, errorGetStep, h]

theorem exec_errorGet_g2 (h : s.ph = .g2) :
    exec .errorGet s = .next (finish .ok .none (s.e.setWidth 16) s) := by
  simp [exec, execErrorGet, errorGetStep, h]

end

/-! ## ErrorClear, in either caller (R141) -/

section
variable {s : State} {i : Instr} {back : Phase} (hcaller : (i = .errorGet ∧ back = .g2) ∨ (i = .read ∧ back = .r2))
include hcaller

theorem exec_ec1 (h : s.ph = .ec1) : exec i s = .next { s with
    t := staImage Config.params s (Config.params.drawRidle s.draws), draws := s.draws + 1
    ph := if s.oerr = true then .ec2 else .ec3 } := by
  obtain ⟨htest, -, -, -⟩ := exec_errorClear s hcaller
  rw [htest h, errorClearTest_eq]

theorem exec_ec2 (h : s.ph = .ec2) : exec i s = .next (errorClearLatch Config.params s) := by
  obtain ⟨-, hlatch, -, -⟩ := exec_errorClear s hcaller
  exact hlatch h

theorem exec_ec3 (h : s.ph = .ec3) : exec i s = .next { s with
    t := staImage Config.params s (Config.params.drawRidle s.draws), draws := s.draws + 1
    ph := if s.rxf = [] then back else .ec4 } := by
  obtain ⟨-, -, hpoll, -⟩ := exec_errorClear s hcaller
  rw [hpoll h, errorClearPoll_eq]

theorem exec_ec4 (h : s.ph = .ec4) : exec i s = .next { s with
    ph := .ec3, rxf := s.rxf.tail, draws := (rxPop s).draws } := by
  obtain ⟨-, -, -, hdrain⟩ := exec_errorClear s hcaller
  rw [hdrain h, errorClearDrain_eq]

/-- EC.1 and, when OERR is set, EC.2 leave the overrun latch clear. -/
theorem errorClear_unlatches (h : s.ph = .ec1) : ∃ t, Reaches (exec i) s t ∧
    t = { s with ph := .ec3, oerr := false, rxf := t.rxf, t := t.t, draws := t.draws } := by
  have htest := exec_ec1 hcaller h
  by_cases hoerr : s.oerr = true
  · rw [if_pos hoerr] at htest
    refine ⟨_, .head htest (.head (exec_ec2 hcaller rfl) .refl), ?_⟩
    rw [errorClearLatch_frame]
  · rw [if_neg hoerr] at htest
    exact ⟨_, .head htest .refl, by rw [← eq_false_of_ne_true hoerr]⟩

/-- EC.3 and EC.4 take one unit. -/
theorem errorClear_takes_unit (h : s.ph = .ec3) (hrxf : s.rxf ≠ []) : ∃ t, Reaches (exec i) s t ∧
    t = { s with ph := .ec3, rxf := s.rxf.tail, t := t.t, draws := t.draws } := by
  have hpoll := exec_ec3 hcaller h
  rw [if_neg hrxf] at hpoll
  exact ⟨_, .head hpoll (.head (exec_ec4 hcaller rfl) .refl), rfl⟩

/-- EC.3 and EC.4 take one unit after another, until the FIFO is empty. -/
theorem errorClear_drains (h : s.ph = .ec3) : ∃ t, Reaches (exec i) s t ∧
    t = { s with ph := back, rxf := [], t := t.t, draws := t.draws } := by
  generalize hunits : s.rxf = units
  induction units generalizing s with
  | nil =>
    have hpoll := exec_ec3 hcaller h
    rw [if_pos hunits] at hpoll
    exact ⟨_, .head hpoll .refl, by rw [← hunits]⟩
  | cons unit units ih =>
    obtain ⟨u, hfirst, hu⟩ := errorClear_takes_unit hcaller h (by simp [hunits])
    obtain ⟨t, hrest, ht⟩ := ih (s := u) (by rw [hu]) (by rw [hu, hunits]; rfl)
    refine ⟨t, hfirst.trans hrest, ht.trans ?_⟩
    rw [hu]

end

end Sys2Proof.Machine

open Sys2Proof Sys2Proof.Machine Sys2Proof.Safety

/-- Settles O40: the bitset G.1 reads is 0 exactly when no flag is set. -/
theorem errorGetWithoutErrorLeavesPeripheral : Obligations.ErrorGetWithoutErrorLeavesPeripheral := by
  unfold Obligations.ErrorGetWithoutErrorLeavesPeripheral
  intro s hph hoerr hferr hperr
  exact ⟨_, _, by rw [exec_errorGet_g1 hph, errorGetQuery_of_clean _ s ⟨hoerr, hferr, hperr⟩]⟩

/-- Settles O41: G.1 keeps the bitset in `e`; ErrorClear clears the latch and drains the FIFO, after which no flag can
be set, and G.2 answers `e`. -/
theorem errorGetReportsThenClears : Obligations.ErrorGetReportsThenClears := by
  unfold Obligations.ErrorGetReportsThenClears
  intro s hph herror
  have hcaller : (Instr.errorGet = .errorGet ∧ Phase.g2 = .g2) ∨ (Instr.errorGet = .read ∧ Phase.g2 = .r2) :=
    .inl ⟨rfl, rfl⟩
  have hquery := exec_errorGet_g1 hph
  rw [errorGetQuery_of_error _ s (by rintro ⟨h1, h2, h3⟩; simp [h1, h2, h3] at herror)] at hquery
  obtain ⟨u, hunlatch, hu⟩ := errorClear_unlatches hcaller (s := { s with
    ph := .ec1, e := errBits s.oerr (ferr Config.params s) (perr Config.params s)
    t := staImage Config.params s (Config.params.drawRidle s.draws), draws := s.draws + 1 }) rfl
  obtain ⟨v, hdrain, hv⟩ := errorClear_drains hcaller (s := u) (by rw [hu])
  have hanswer := exec_errorGet_g2 (s := v) (by rw [hv])
  obtain ⟨n, hn⟩ := Reaches.head hquery (hunlatch.trans (hdrain.trans (.head hanswer .refl)))
  have hrxf : v.rxf = [] := by rw [hv]
  have he : v.e = errBits s.oerr (ferr Config.params s) (perr Config.params s) := by rw [hv, hu]
  refine ⟨n, _, hn, ?frame, ?answer, ferr_of_empty _ _ hrxf, perr_of_empty _ _ hrxf⟩
  case frame => rw [hv, hu]; rfl
  case answer => rw [finish_res, he, errBits_setWidth]

end

section
/-! PROOF. READ (42_transfer.md rules R150 to R157): each label by the state it leaves, the fields a step can move, and
the loop over the units of the buffer, one pass at a time. -/

namespace Sys2Proof.Machine

open Sys2Proof.Safety

/-! ## What READ and WRITE sample -/

section
variable (P : Params) (s : State)

@[simp] theorem modePdsel_modeImage : modePdsel (modeImage s) = modePdsel s.mode := by
  unfold modePdsel modeImage
  apply BitVec.eq_of_getLsbD_eq
  intro i hi
  rw [BitVec.getLsbD_extractLsb', BitVec.getLsbD_extractLsb', BitVec.getLsbD_setWidth]
  simp [show 1 + i < 32 by omega]

@[simp] theorem unitSize_modeImage : unitSize (modeImage s) = unitSize s.mode := by
  unfold unitSize; rw [modePdsel_modeImage]

theorem unitSize_cases {n : Nat} (m : BitVec n) : unitSize m = 1 ∨ unitSize m = 2 := by
  unfold unitSize; split_ifs
  · exact .inr rfl
  · exact .inl rfl

theorem width_toNat_eq_two_iff (w : BitVec 2) : w.toNat = 2 ↔ w = 2 := by
  revert w; decide

theorem width_toNat {w : BitVec 2} (h : w = 1 ∨ w = 2) : w.toNat = 1 ∨ w.toNat = 2 :=
  h.imp (congrArg BitVec.toNat) (congrArg BitVec.toNat)

theorem sampleWidth_eq (go : Phase) :
    sampleWidth P go s = { s with t := modeImage s, w := unitSize s.mode, ph := go } := by
  simp [sampleWidth]

/-- The receive error flags: one of them stops READ (R150). -/
abbrev lineErrors : Prop := s.oerr = true ∨ ferr P s = true ∨ perr P s = true

theorem staImage_and_sErr_ne_zero_iff (r : Bool) : staImage P s r &&& sErr ≠ 0 ↔ lineErrors P s := by
  rw [ne_eq, staImage_and_sErr_eq_zero_iff, lineErrors]
  simp only [not_and_or, Bool.not_eq_false]

/-- Without OERR, and no buffered unit being in error, no flag is set in either view (R43). -/
theorem not_lineErrors (hoerr : s.oerr = false) (hclean : ∀ u ∈ s.rxf, u.ferr = false ∧ u.perr = false) :
    ¬lineErrors P s := by
  have hferr : ferr P s = false := by
    unfold ferr
    split
    · split
      · rfl
      · next u rest hrxf => exact (hclean u (by simp [hrxf])).1
    · simpa using fun u hu => (hclean u hu).1
  have hperr : perr P s = false := by
    unfold perr
    split
    · split
      · rfl
      · next u rest hrxf => exact (hclean u (by simp [hrxf])).2
    · simpa using fun u hu => (hclean u hu).2
  rintro (h | h | h) <;> simp_all

end

/-! ## R.1, R.4 and R.5 by what they read -/

section
variable (P : Params) {s : State}

theorem readPretest_of_error (h : lineErrors P s) : readPretest P s = { s with
    t := staImage P s (P.drawRidle s.draws), draws := s.draws + 1, ph := .ec1 } := by
  unfold readPretest
  rw [regRead_sta, afterRead_mk, if_neg ((staImage_and_sErr_ne_zero_iff P s _).2 h)]
  rfl

theorem readPretest_of_clean (h : ¬lineErrors P s) : readPretest P s = { s with
    t := staImage P s (P.drawRidle s.draws), draws := s.draws + 1, ph := .r2 } := by
  unfold readPretest
  rw [regRead_sta, afterRead_mk, if_pos (not_not.1 (mt (staImage_and_sErr_ne_zero_iff P s _).1 h))]
  rfl

theorem readPoll_of_error (h : lineErrors P s) : readPoll P s = { s with
    t := staImage P s (P.drawRidle s.draws), draws := s.draws + 1, ph := .idle, res := 0x00000052#32 } := by
  unfold readPoll
  rw [regRead_sta, afterRead_mk, if_neg ((staImage_and_sErr_ne_zero_iff P s _).2 h)]
  rfl

theorem readPoll_of_clean (h : ¬lineErrors P s) : readPoll P s = { s with
    t := staImage P s (P.drawRidle s.draws), draws := s.draws + 1, ph := if s.rxf = [] then .r4 else .r5 } := by
  unfold readPoll
  rw [regRead_sta, afterRead_mk, if_pos (not_not.1 (mt (staImage_and_sErr_ne_zero_iff P s _).1 h))]
  simp [drawn]

theorem readUnit_cons {u : RxUnit} {rest : List RxUnit} (h : s.rxf = u :: rest) :
    readUnit P s = { s with t := u.data.setWidth 32, rxf := rest, ph := .r6 } := by
  unfold readUnit
  rw [regRead_rxreg, afterRead_mk, rxData_cons P s u rest h, rxPop_cons s u rest h]

theorem readUnit_nil (h : s.rxf = []) : readUnit P s = { s with
    t := (P.drawUnit s.draws).setWidth 32, draws := s.draws + 1, ph := .r6 } := by
  unfold readUnit
  rw [regRead_rxreg, afterRead_mk, rxData_nil P s h, rxPop_nil s h]
  rfl

theorem readUnit_frame : readUnit P s = { s with
    ph := .r6, t := (rxData P s).setWidth 32, rxf := s.rxf.tail, draws := (rxPop s).draws } := by
  unfold readUnit
  rw [regRead_rxreg, afterRead_mk, rxPop_frame]

/-! ## R.6: the store (R74-R76) -/

theorem setWidth_extract_low (t : Word) : (t.setWidth 16 : Half).extractLsb' 0 8 = t.extractLsb' 0 8 := by
  apply BitVec.eq_of_getLsbD_eq
  intro i hi
  simp only [BitVec.getLsbD_extractLsb', BitVec.getLsbD_setWidth]
  simp [show i < 16 by omega]

theorem setWidth_extract_high (t : Word) : (t.setWidth 16 : Half).extractLsb' 8 8 = t.extractLsb' 8 8 := by
  apply BitVec.eq_of_getLsbD_eq
  intro i hi
  simp only [BitVec.getLsbD_extractLsb', BitVec.getLsbD_setWidth]
  simp [show 8 + i < 16 by omega]

theorem readStore_of_fault {kind : FaultKind} (h : memCheck P (unitAddr s) s.w.toNat = some kind) :
    readStore P s = raise kind s := by
  unfold readStore; rw [memWrite_error P s h]; rfl

theorem readStore_of_admitted (h : memCheck P (unitAddr s) s.w.toNat = none) : readStore P s = { s with
    mem := Memory.writeUnit s.mem (unitAddr s) s.w.toNat (s.t.setWidth 16), k := s.k + 1, ph := .r3 } := by
  unfold readStore; rw [memWrite_ok h]; rfl

/-- R.6 stores the unit and counts it, or faults. -/
theorem readStore_cases :
    (∃ kind, memCheck P (unitAddr s) s.w.toNat = some kind ∧ readStore P s = raise kind s) ∨
    (memCheck P (unitAddr s) s.w.toNat = none ∧ readStore P s = { s with
      mem := Memory.writeUnit s.mem (unitAddr s) s.w.toNat (s.t.setWidth 16), k := s.k + 1, ph := .r3 }) := by
  cases h : memCheck P (unitAddr s) s.w.toNat with
  | some kind => exact .inl ⟨kind, rfl, readStore_of_fault P h⟩
  | none => exact .inr ⟨rfl, readStore_of_admitted P h⟩

/-! ## READ's labels (R150) -/

theorem readStep_r0 (h : s.ph = .r0) : readStep P s = .next (readStart P s) := by simp [readStep, h]
theorem readStep_r1 (h : s.ph = .r1) : readStep P s = .next (readPretest P s) := by simp [readStep, h]
theorem readStep_r2 (h : s.ph = .r2) : readStep P s = .next (sampleWidth P .r3 s) := by simp [readStep, h]
theorem readStep_r3 (h : s.ph = .r3) : readStep P s = .next (countTest .r4 s) := by simp [readStep, h]
theorem readStep_r4 (h : s.ph = .r4) : readStep P s = .next (readPoll P s) := by simp [readStep, h]
theorem readStep_r5 (h : s.ph = .r5) : readStep P s = .next (readUnit P s) := by simp [readStep, h]
theorem readStep_r6 (h : s.ph = .r6) (hw : s.w = 1 ∨ s.w = 2) : readStep P s = .next (readStore P s) := by
  unfold readStep; rw [h]; exact if_pos hw

theorem readStep_r4_data (h : s.ph = .r4) (hclean : ¬lineErrors P s) (hrxf : s.rxf ≠ []) : readStep P s =
    .next { s with t := staImage P s (P.drawRidle s.draws), draws := s.draws + 1, ph := .r5 } := by
  rw [readStep_r4 P h, readPoll_of_clean P hclean, if_neg hrxf]

theorem readStep_r5_unit {u : RxUnit} {rest : List RxUnit} (h : s.ph = .r5) (hrxf : s.rxf = u :: rest) :
    readStep P s = .next { s with t := u.data.setWidth 32, rxf := rest, ph := .r6 } := by
  rw [readStep_r5 P h, readUnit_cons P hrxf]

theorem readStep_r6_admitted (h : s.ph = .r6) (hw : s.w = 1 ∨ s.w = 2)
    (hcheck : memCheck P (unitAddr s) s.w.toNat = none) : readStep P s = .next { s with
      mem := Memory.writeUnit s.mem (unitAddr s) s.w.toNat (s.t.setWidth 16), k := s.k + 1, ph := .r3 } := by
  rw [readStep_r6 P h hw, readStore_of_admitted P hcheck]

theorem exec_read : exec .read s = readStep Config.params s := rfl

variable {P} in
/-- What a step of READ moves: at EC.2, EC.4, R.5 and R.6 what the access moves, and at every other label the phase, `w`,
`t`, RES and the draw counter at most. -/
theorem readStep_cases {t : State} (h : readStep P s = .next t) :
    t = { s with ph := t.ph, w := t.w, t := t.t, res := t.res, draws := t.draws } ∨
    (s.ph = .ec2 ∧ t = errorClearLatch P s) ∨ (s.ph = .ec4 ∧ t = errorClearDrain P s) ∨
    (s.ph = .r5 ∧ t = readUnit P s) ∨ (s.ph = .r6 ∧ (s.w = 1 ∨ s.w = 2) ∧ t = readStore P s) := by
  unfold readStep at h
  split at h
  case h_11 hph =>
    split at h <;> cases h
    next hw => exact .inr (.inr (.inr (.inr ⟨hph, hw, rfl⟩)))
  all_goals cases h
  case h_1 => left; unfold readStart; split_ifs <;> rfl
  case h_2 => exact .inl rfl
  case h_3 => exact .inl rfl
  case h_4 hph => exact .inr (.inl ⟨hph, rfl⟩)
  case h_5 => exact .inl rfl
  case h_6 hph => exact .inr (.inr (.inl ⟨hph, rfl⟩))
  case h_7 => exact .inl rfl
  case h_8 => left; unfold countTest; split_ifs <;> rfl
  case h_9 =>
    left
    by_cases herr : lineErrors P s
    · rw [readPoll_of_error P herr]
    · rw [readPoll_of_clean P herr]
  case h_10 hph => exact .inr (.inr (.inr (.inl ⟨hph, rfl⟩)))

end

/-! ## The loop (R150, R152) -/

section
variable {P : Params} {s : State}

/-- One pass R.3 to R.6 over an error-free unit at the head of RXF moves it to the buffer and counts it. -/
theorem readStep_pass {u : RxUnit} {rest : List RxUnit} (hph : s.ph = .r3) (hk : s.k ≠ s.opbL)
    (hw : s.w = 1 ∨ s.w = 2) (hoerr : s.oerr = false) (hrxf : s.rxf = u :: rest)
    (hclean : ∀ u ∈ s.rxf, u.ferr = false ∧ u.perr = false)
    (hcheck : memCheck P (unitAddr s) s.w.toNat = none) :
    ∃ t, runSteps (readStep P) 4 s = .next t ∧
      t = { s with k := s.k + 1, rxf := rest, mem := t.mem, t := t.t, draws := t.draws } ∧
      memWrite P (unitAddr s) s.w.toNat (u.data.setWidth 16) s = .ok { s with mem := t.mem } := by
  have hr3 : readStep P s = .next { s with ph := .r4 } := by rw [readStep_r3 P hph, countTest, if_neg hk]
  have hr4 := readStep_r4_data P (s := { s with ph := .r4 }) rfl (not_lineErrors P _ hoerr hclean) (by simp [hrxf])
  have hr5 := readStep_r5_unit P (s := { s with
    t := staImage P { s with ph := .r4 } (P.drawRidle s.draws), draws := s.draws + 1, ph := .r5 }) rfl hrxf
  have hr6 := readStep_r6_admitted P (s := { s with
    t := u.data.setWidth 32, rxf := rest, draws := s.draws + 1, ph := .r6 }) rfl hw hcheck
  have hvalue : ((u.data.setWidth 32).setWidth 16 : Half) = u.data.setWidth 16 :=
    BitVec.setWidth_setWidth_of_le _ (by decide)
  refine ⟨_, (runSteps_succ hr3).trans ((runSteps_succ hr4).trans ((runSteps_succ hr5).trans (runSteps_succ hr6))),
    ?frame, ?stored⟩
  case frame => rw [← hph]
  case stored => rw [memWrite_ok hcheck, ← hvalue]; rfl

/-- The unit in memory is what a performed read of it answers. -/
theorem memRead_bufferUnit {addr n : Nat} (h : memCheck P addr n = none) :
    memRead P addr n s = .ok (bufferUnit s n addr) := memRead_ok h

theorem bufferUnit_memWrite {t : State} {addr n : Nat} {v : Half} (hn : n = 1 ∨ n = 2) (hwf : Memory.wf s.mem)
    (h : memWrite P addr n v s = .ok t) : bufferUnit t n addr = if n = 2 then v else v &&& 0x00FF#16 :=
  Except.ok.inj ((memRead_bufferUnit (memWrite_memCheck h)).symm.trans (memRead_memWrite hn hwf h))

theorem bufferUnit_congr {t : State} {n addr : Nat} (hlow : Memory.read t.mem addr = Memory.read s.mem addr)
    (hhigh : n = 2 → Memory.read t.mem (addr + 1) = Memory.read s.mem (addr + 1)) :
    bufferUnit t n addr = bufferUnit s n addr := by
  unfold bufferUnit
  rw [hlow]
  split_ifs with hn
  · rw [hhigh hn]
  · rfl

/-- From R.3 with as many units to go as the head of RXF holds, READ's passes put them one after another into the
buffer from unit `k` on, and finish. -/
theorem readStep_fills {us rest : List RxUnit} (hph : s.ph = .r3) (hk : s.k.toNat + us.length = s.opbL.toNat)
    (hw : s.w = 1 ∨ s.w = 2) (hwf : Memory.wf s.mem) (hoerr : s.oerr = false) (hrxf : s.rxf = us ++ rest)
    (hclean : ∀ u ∈ s.rxf, u.ferr = false ∧ u.perr = false)
    (hcheck : ∀ i, i < us.length → memCheck P (unitAddr s + s.w.toNat * i) s.w.toNat = none) :
    ∃ t, runSteps (readStep P) (4 * us.length + 1) s = .next t ∧
      t = { s with
        ph := .idle, res := 0x00000001#32, k := s.opbL, rxf := rest, mem := t.mem, t := t.t, draws := t.draws } ∧
      (∀ i u, us[i]? = some u → bufferUnit t s.w.toNat (unitAddr s + s.w.toNat * i) =
        if s.w.toNat = 2 then u.data.setWidth 16 else u.data.setWidth 16 &&& 0x00FF#16) ∧
      ∀ a, a < unitAddr s ∨ unitAddr s + s.w.toNat * us.length ≤ a → Memory.read t.mem a = Memory.read s.mem a := by
  induction us generalizing s with
  | nil =>
    have hdone : s.k = s.opbL := BitVec.eq_of_toNat_eq hk
    obtain rfl : s.rxf = rest := hrxf
    have hr3 : readStep P s = .next { s with ph := .idle, res := 0x00000001#32 } := by
      rw [readStep_r3 P hph, countTest, if_pos hdone]; rfl
    exact ⟨_, runSteps_succ hr3, by rw [hdone], nofun, fun _ _ => rfl⟩
  | cons u us ih =>
    have hlt : s.k.toNat < s.opbL.toNat := by rw [← hk, List.length_cons]; omega
    have hhere := hcheck 0 (Nat.succ_pos _)
    rw [Nat.mul_zero, Nat.add_zero] at hhere
    obtain ⟨v, hpass, hv, hwrite⟩ := readStep_pass (rest := us ++ rest) hph
      (fun h => by simp [h] at hlt) hw hoerr hrxf hclean hhere
    have hvk : v.k.toNat = s.k.toNat + 1 := by
      rw [hv]
      exact BitVec.toNat_add_of_lt (by have := s.opbL.isLt; simp; omega)
    have hvw : v.w = s.w := by rw [hv]
    have haddr : unitAddr v = unitAddr s + s.w.toNat := by
      rw [unitAddr, hvk, hvw, Nat.mul_succ, unitAddr, hv, Nat.add_assoc]
    have hwidth := width_toNat hw
    have hwf' := memWrite_wf P s _ _ _ _ hwidth hwf hwrite
    obtain ⟨t, hrest, ht, hunits, hother⟩ := ih (s := v) (by rw [hv, hph])
      (by rw [hvk, hv, ← hk, List.length_cons]; omega) (by rwa [hvw])
      hwf' (by rw [hv, hoerr]) (by rw [hv])
      (fun u hu => hclean u (by rw [hrxf]; rw [hv] at hu; exact List.mem_cons_of_mem _ hu))
      (fun i hi => by
        rw [haddr, hvw, Nat.add_assoc, Nat.add_comm s.w.toNat, ← Nat.mul_succ]
        exact hcheck (i + 1) (Nat.succ_lt_succ hi))
    rw [haddr, hvw] at hunits hother
    have hsteps : 4 * (u :: us).length + 1 = 4 + (4 * us.length + 1) := by rw [List.length_cons]; omega
    refine ⟨t, hsteps ▸ runSteps_add hpass hrest, ht.trans (by rw [hv]), ?units, fun a ha => ?outside⟩
    case units =>
      rintro (_ | i) unit hunit
      · obtain rfl : u = unit := by simpa using hunit
        rw [Nat.mul_zero, Nat.add_zero, ← bufferUnit_memWrite hwidth hwf hwrite]
        exact bufferUnit_congr (hother _ (.inl (by omega))) fun htwo => hother _ (.inl (by omega))
      · rw [Nat.mul_succ, Nat.add_comm (_ * i), ← Nat.add_assoc]
        exact hunits i unit (by simpa using hunit)
    case outside =>
      rw [List.length_cons, Nat.mul_succ] at ha
      rw [hother a (by omega)]
      exact memWrite_other P s _ _ _ _ hwidth hwrite a (by omega)

end

end Sys2Proof.Machine

open Sys2Proof Sys2Proof.Machine Sys2Proof.Safety

/-- Settles O43: the four labels are one test or one sample each. -/
theorem readStartsAndFinishes : Obligations.ReadStartsAndFinishes := by
  unfold Obligations.ReadStartsAndFinishes
  refine fun s => ⟨fun hph => ?start, fun hph => ?pretest, fun hph => ?sample, fun hph => ?count⟩
  case start => rw [exec_read, readStep_r0 _ hph]; rfl
  case pretest =>
    refine ⟨Config.params.drawRidle s.draws, s.draws + 1, ?_⟩
    rw [exec_read, readStep_r1 _ hph]
    by_cases herr : lineErrors Config.params s
    · rw [readPretest_of_error _ herr, if_pos herr]
    · rw [readPretest_of_clean _ herr, if_neg herr]
  case sample => rw [exec_read, readStep_r2 _ hph, sampleWidth_eq]; rfl
  case count => rw [exec_read, readStep_r3 _ hph]; rfl

/-- Settles O44: R.4 tests the flags first and the FIFO only when none is set; R.5 takes what RXREG gives. -/
theorem readPollsErrorBeforeData : Obligations.ReadPollsErrorBeforeData := by
  unfold Obligations.ReadPollsErrorBeforeData
  refine fun s => ⟨fun hph => ?poll, fun hph u rest hcons => ?unit, fun hph hnil => ?draw⟩
  case poll =>
    refine ⟨Config.params.drawRidle s.draws, s.draws + 1, ?_⟩
    dsimp only
    rw [exec_read, readStep_r4 _ hph]
    by_cases herr : lineErrors Config.params s
    · rw [readPoll_of_error _ herr, if_pos herr]
    · rw [readPoll_of_clean _ herr, if_neg herr]
      split_ifs <;> rfl
  case unit => rw [exec_read, readStep_r5_unit _ hph hcons]
  case draw => exact ⟨_, _, by rw [exec_read, readStep_r5 _ hph, readUnit_nil _ hnil]⟩

/-- Settles O45: R.6 stores what `memCheck` admits and faults otherwise, its checks standing in this order. -/
theorem readStoresUnitOrFaults : Obligations.ReadStoresUnitOrFaults := by
  unfold Obligations.ReadStoresUnitOrFaults
  intro s hph hw
  have haddr : s.opaL.toNat + s.w.toNat * s.k.toNat = unitAddr s := rfl
  dsimp only
  rw [exec_read, readStep_r6 _ hph hw, haddr]
  simp only [← width_toNat_eq_two_iff]
  split_ifs with hodd hadm htwo
  · rw [readStore_of_fault _ (memCheck_misaligned _ _ _ hodd)]; rfl
  · rw [readStore_of_admitted _ (memCheck_none _ _ _ (by omega) hadm.1 hadm.2), Memory.writeUnit, if_pos htwo,
      setWidth_extract_low, setWidth_extract_high]
  · rw [readStore_of_admitted _ (memCheck_none _ _ _ (by omega) hadm.1 hadm.2), Memory.writeUnit, if_neg htwo,
      setWidth_extract_low]
  · rw [readStore_of_fault _ (memCheck_refused _ _ _ hodd hadm)]; rfl

/-- Settles O46: the loop lemma `readStep_fills` from `k = 0`. -/
theorem readFillsBufferFromFifo : Obligations.ReadFillsBufferFromFifo := by
  unfold Obligations.ReadFillsBufferFromFifo
  refine ⟨fun s => rfl, fun P s us rest hph hk hw hwf hoerr hrxf hlen hclean hcheck => ?_⟩
  have haddr : unitAddr s = s.opaL.toNat := by rw [unitAddr, hk]; rfl
  simp only [← width_toNat_eq_two_iff]
  rw [← haddr] at hcheck ⊢
  exact readStep_fills hph (by rw [hk, ← hlen]; exact Nat.zero_add _) (hw ▸ unitSize_cases s.mode) hwf hoerr hrxf
    hclean hcheck

/-- Settles O47: by `readStep_cases` only the accesses at EC.2, EC.4, R.5 and R.6 move anything of the peripheral or
memory, each what it accesses. -/
theorem readFrame : Obligations.ReadFrame := by
  unfold Obligations.ReadFrame
  intro s t h
  obtain ht | ⟨hph, rfl⟩ | ⟨hph, rfl⟩ | ⟨hph, rfl⟩ | ⟨hph, hw, rfl⟩ := readStep_cases h
  · rw [ht]
    exact ⟨rfl, fun _ => ⟨rfl, rfl⟩, fun _ => rfl, fun _ _ _ => rfl, fun _ _ => rfl⟩
  · rw [errorClearLatch_frame]
    exact ⟨rfl, fun _ => ⟨rfl, rfl⟩, fun hne => absurd hph hne, fun hne => absurd hph hne, fun _ _ => rfl⟩
  · rw [errorClearDrain_eq]
    exact ⟨rfl, fun _ => ⟨rfl, rfl⟩, fun _ => rfl, fun _ hne => absurd hph hne, fun _ _ => rfl⟩
  · rw [readUnit_frame]
    exact ⟨rfl, fun _ => ⟨rfl, rfl⟩, fun _ => rfl, fun _ _ hne => absurd hph hne, fun _ _ => rfl⟩
  · obtain ⟨kind, -, hfault⟩ | ⟨hcheck, hstore⟩ := readStore_cases (P := Config.params) (s := s)
    · rw [hfault]
      exact ⟨rfl, fun _ => ⟨rfl, rfl⟩, fun _ => rfl, fun _ _ _ => rfl, fun _ _ => rfl⟩
    · have hother := memWrite_other _ s _ _ _ _ (width_toNat hw) (memWrite_ok (v := s.t.setWidth 16) hcheck)
      rw [hstore]
      exact ⟨rfl, fun hne => absurd hph hne, fun _ => rfl, fun _ _ _ => rfl, hother⟩

end

section
/-! PROOF. WRITE (42_transfer.md rules R155 to R157): each label by the state it leaves, the fields a step can move, and
the loop over the units of the buffer, one pass at a time. -/

namespace Sys2Proof.Machine

open Sys2Proof.Safety

section
variable (P : Params) {s : State}

/-! ## W.3 to W.5 by what they access (R155) -/

theorem writePoll_eq : writePoll P s = { s with
    t := staImage P s (P.drawRidle s.draws), draws := s.draws + 1
    ph := if s.txf.length = P.txDepth then .w3 else .w4 } := by
  simp [writePoll, drawn]

theorem writeFetch_of_fault {kind : FaultKind} (h : memCheck P (unitAddr s) s.w.toNat = some kind) :
    writeFetch P s = raise kind s := by
  unfold writeFetch; rw [memRead_error P s h]; rfl

theorem writeFetch_of_admitted (h : memCheck P (unitAddr s) s.w.toNat = none) : writeFetch P s = { s with
    t := (bufferUnit s s.w.toNat (unitAddr s)).setWidth 32, ph := .w5 } := by
  unfold writeFetch; rw [memRead_bufferUnit h]; rfl

theorem writeSend_of_full (h : s.txf.length = P.txDepth) : writeSend P s = raise .txOverflow s := by
  unfold writeSend; rw [regWrite_txreg_full P s s.t h]; rfl

theorem writeSend_of_room (h : s.txf.length ≠ P.txDepth) : writeSend P s = { s with
    txf := s.txf ++ [keptUnit s.mode s.t], k := s.k + 1, ph := .w2 } := by
  unfold writeSend; rw [regWrite_txreg_room P s s.t h]; rfl

/-! ## WRITE's labels (R155) -/

theorem writeStep_w0 (h : s.ph = .w0) : writeStep P s = .next (writeStart s) := by simp [writeStep, h]
theorem writeStep_w1 (h : s.ph = .w1) : writeStep P s = .next (sampleWidth P .w2 s) := by simp [writeStep, h]
theorem writeStep_w2 (h : s.ph = .w2) : writeStep P s = .next (countTest .w3 s) := by simp [writeStep, h]
theorem writeStep_w3 (h : s.ph = .w3) : writeStep P s = .next (writePoll P s) := by simp [writeStep, h]
theorem writeStep_w4 (h : s.ph = .w4) (hw : s.w = 1 ∨ s.w = 2) : writeStep P s = .next (writeFetch P s) := by
  unfold writeStep; rw [h]; exact if_pos hw
theorem writeStep_w5 (h : s.ph = .w5) : writeStep P s = .next (writeSend P s) := by simp [writeStep, h]

theorem writeStep_w3_room (h : s.ph = .w3) (hroom : s.txf.length ≠ P.txDepth) : writeStep P s =
    .next { s with t := staImage P s (P.drawRidle s.draws), draws := s.draws + 1, ph := .w4 } := by
  rw [writeStep_w3 P h, writePoll_eq, if_neg hroom]

theorem writeStep_w4_admitted (h : s.ph = .w4) (hw : s.w = 1 ∨ s.w = 2)
    (hcheck : memCheck P (unitAddr s) s.w.toNat = none) : writeStep P s =
      .next { s with t := (bufferUnit s s.w.toNat (unitAddr s)).setWidth 32, ph := .w5 } := by
  rw [writeStep_w4 P h hw, writeFetch_of_admitted P hcheck]

theorem writeStep_w5_room (h : s.ph = .w5) (hroom : s.txf.length ≠ P.txDepth) : writeStep P s =
    .next { s with txf := s.txf ++ [keptUnit s.mode s.t], k := s.k + 1, ph := .w2 } := by
  rw [writeStep_w5 P h, writeSend_of_room P hroom]

theorem exec_write : exec .write s = writeStep Config.params s := rfl

variable {P} in
/-- What a step of WRITE moves: at W.5 what the write of TXREG moves, and at every other label the phase, `w`, `t`, RES,
FAULT and the draw counter at most. -/
theorem writeStep_cases {t : State} (h : writeStep P s = .next t) :
    t = { s with ph := t.ph, w := t.w, t := t.t, res := t.res, fault := t.fault, draws := t.draws } ∨
    (s.ph = .w5 ∧ t = writeSend P s) := by
  unfold writeStep at h
  split at h
  case h_5 =>
    split at h <;> cases h
    left
    cases hcheck : memCheck P (unitAddr s) s.w.toNat with
    | some kind => rw [writeFetch_of_fault P hcheck]; rfl
    | none => rw [writeFetch_of_admitted P hcheck]
  all_goals cases h
  case h_1 => left; unfold writeStart; split_ifs <;> rfl
  case h_2 => exact .inl rfl
  case h_3 => left; unfold countTest; split_ifs <;> rfl
  case h_4 => exact .inl rfl
  case h_6 hph => exact .inr ⟨hph, rfl⟩

end

/-! ## The loop (R155, R156) -/

section
variable {P : Params} {s : State}

/-- One pass W.2 to W.5 with room in TXF appends the unit at `k` and counts it. -/
theorem writeStep_pass (hph : s.ph = .w2) (hk : s.k ≠ s.opbL) (hw : s.w = 1 ∨ s.w = 2)
    (hroom : s.txf.length ≠ P.txDepth) (hcheck : memCheck P (unitAddr s) s.w.toNat = none) :
    ∃ t, runSteps (writeStep P) 4 s = .next t ∧ t = { s with
      k := s.k + 1, t := t.t, draws := t.draws
      txf := s.txf ++ [keptUnit s.mode ((bufferUnit s s.w.toNat (unitAddr s)).setWidth 32)] } := by
  have hw2 : writeStep P s = .next { s with ph := .w3 } := by rw [writeStep_w2 P hph, countTest, if_neg hk]
  have hw3 := writeStep_w3_room P (s := { s with ph := .w3 }) rfl hroom
  have hw4 := writeStep_w4_admitted P (s := { s with
    t := staImage P { s with ph := .w3 } (P.drawRidle s.draws), draws := s.draws + 1, ph := .w4 }) rfl hw hcheck
  have hw5 := writeStep_w5_room P (s := { s with
    t := (bufferUnit s s.w.toNat (unitAddr s)).setWidth 32, draws := s.draws + 1, ph := .w5 }) rfl hroom
  exact ⟨_, (runSteps_succ hw2).trans ((runSteps_succ hw3).trans ((runSteps_succ hw4).trans (runSteps_succ hw5))),
    by rw [← hph]⟩

/-- From W.2 with `n` units to go and room for them, WRITE's passes append them in buffer order from unit `k` on, and
finish. -/
theorem writeStep_sends {n : Nat} (hph : s.ph = .w2) (hk : s.k.toNat + n = s.opbL.toNat) (hw : s.w = 1 ∨ s.w = 2)
    (hroom : s.txf.length + n ≤ P.txDepth)
    (hcheck : ∀ i, i < n → memCheck P (unitAddr s + s.w.toNat * i) s.w.toNat = none) :
    ∃ t, runSteps (writeStep P) (4 * n + 1) s = .next t ∧ t = { s with
      ph := .idle, res := 0x00000001#32, k := s.opbL, t := t.t, draws := t.draws
      txf := s.txf ++ (List.range n).map fun i =>
        keptUnit s.mode ((bufferUnit s s.w.toNat (unitAddr s + s.w.toNat * i)).setWidth 32) } := by
  induction n generalizing s with
  | zero =>
    have hdone : s.k = s.opbL := BitVec.eq_of_toNat_eq hk
    have hw2 : writeStep P s = .next { s with ph := .idle, res := 0x00000001#32 } := by
      rw [writeStep_w2 P hph, countTest, if_pos hdone]; rfl
    exact ⟨_, runSteps_succ hw2, by rw [hdone, List.range_zero, List.map_nil, List.append_nil]⟩
  | succ n ih =>
    have hhere := hcheck 0 (Nat.succ_pos _)
    rw [Nat.mul_zero, Nat.add_zero] at hhere
    obtain ⟨v, hpass, hv⟩ := writeStep_pass hph (fun h => by simp [h] at hk) hw (by omega) hhere
    have hvk : v.k.toNat = s.k.toNat + 1 := by
      rw [hv]
      exact BitVec.toNat_add_of_lt (by have := s.opbL.isLt; simp; omega)
    have hvw : v.w = s.w := by rw [hv]
    have hvopa : v.opaL = s.opaL := by rw [hv]
    have haddr (i : Nat) : unitAddr v + s.w.toNat * i = unitAddr s + s.w.toNat * (i + 1) := by
      rw [unitAddr, hvk, hvw, hvopa, Nat.mul_succ, Nat.mul_succ, unitAddr]; omega
    obtain ⟨t, hrest, ht⟩ := ih (s := v) (by rw [hv, hph]) (by rw [hvk, hv, ← hk]; omega) (by rwa [hvw])
      (by rw [hv, List.length_append]; exact (Nat.add_right_comm ..).trans_le hroom)
      (fun i hi => by rw [hvw, haddr]; exact hcheck (i + 1) (Nat.succ_lt_succ hi))
    have hsteps : 4 * (n + 1) + 1 = 4 + (4 * n + 1) := by omega
    refine ⟨t, hsteps ▸ runSteps_add hpass hrest, ht.trans ?_⟩
    simp only [hvw, haddr]
    rw [hv, List.range_succ_eq_map, List.map_cons, List.map_map, Nat.mul_zero, Nat.add_zero, List.append_assoc]
    rfl

end

end Sys2Proof.Machine

open Sys2Proof Sys2Proof.Machine Sys2Proof.Safety

/-- Settles O48: the four labels are one test or one sample each. -/
theorem writeStartsPollsAndFinishes : Obligations.WriteStartsPollsAndFinishes := by
  unfold Obligations.WriteStartsPollsAndFinishes
  refine fun s => ⟨fun hph => ?start, fun hph => ?sample, fun hph => ?count, fun hph => ?poll⟩
  case start => rw [exec_write, writeStep_w0 _ hph]; rfl
  case sample => rw [exec_write, writeStep_w1 _ hph, sampleWidth_eq]; rfl
  case count => rw [exec_write, writeStep_w2 _ hph]; rfl
  case poll => exact ⟨_, _, by rw [exec_write, writeStep_w3 _ hph, writePoll_eq]⟩

/-- Settles O49: W.4 fetches what `memCheck` admits and faults otherwise, its checks standing in this order. -/
theorem writeFetchesUnitOrFaults : Obligations.WriteFetchesUnitOrFaults := by
  unfold Obligations.WriteFetchesUnitOrFaults
  intro s hph hw
  have haddr : s.opaL.toNat + s.w.toNat * s.k.toNat = unitAddr s := rfl
  have hbyte (b : Byte) : (b.setWidth 16 : Half).setWidth 32 = (b.setWidth 32 : Word) := by simp
  dsimp only
  rw [exec_write, writeStep_w4 _ hph hw, haddr]
  simp only [← width_toNat_eq_two_iff]
  split_ifs with hodd hadm htwo
  · rw [writeFetch_of_fault _ (memCheck_misaligned _ _ _ hodd)]; rfl
  · rw [writeFetch_of_admitted _ (memCheck_none _ _ _ (by omega) hadm.1 hadm.2), bufferUnit, if_pos htwo]
  · rw [writeFetch_of_admitted _ (memCheck_none _ _ _ (by omega) hadm.1 hadm.2), bufferUnit, if_neg htwo, hbyte]
  · rw [writeFetch_of_fault _ (memCheck_refused _ _ _ hodd hadm)]; rfl

/-- Settles O50: W.5 is the write of TXREG, refused exactly when the FIFO is full. -/
theorem writeSendsUnit : Obligations.WriteSendsUnit := by
  unfold Obligations.WriteSendsUnit
  intro s hph
  rw [exec_write, writeStep_w5 _ hph]
  by_cases hfull : s.txf.length = Config.params.txDepth
  · rw [writeSend_of_full _ hfull, if_pos hfull]; rfl
  · rw [writeSend_of_room _ hfull, if_neg hfull]; rfl

/-- Settles O51: W.0 and W.1, then the loop lemma `writeStep_sends` from `k = 0`. -/
theorem writeSendsWholeBuffer : Obligations.WriteSendsWholeBuffer := by
  unfold Obligations.WriteSendsWholeBuffer
  refine ⟨fun s => rfl, fun P s hph hk hopa hroom hcheck => ?_⟩
  have hw0 : writeStep P s = .next { s with ph := .w1 } := by rw [writeStep_w0 P hph, writeStart, if_neg hopa]
  have hw1 := writeStep_w1 P (s := { s with ph := .w1 }) rfl
  rw [sampleWidth_eq] at hw1
  have haddr (w : BitVec 2) : unitAddr { s with ph := .w2, t := modeImage s, w } = s.opaL.toNat := by
    rw [unitAddr, hk]; rfl
  obtain ⟨t, hloop, ht⟩ := writeStep_sends (P := P) (n := s.opbL.toNat)
    (s := { s with ph := .w2, t := modeImage s, w := unitSize s.mode }) rfl (by rw [hk]; exact Nat.zero_add _)
    (unitSize_cases s.mode) hroom (by rwa [haddr])
  rw [haddr] at ht
  exact ⟨t, (runSteps_succ hw0).trans ((runSteps_succ hw1).trans hloop), ht⟩

/-- Settles O52: by `writeStep_cases` only W.5 moves anything of the peripheral, and there it is TXF. -/
theorem writeFrame : Obligations.WriteFrame := by
  unfold Obligations.WriteFrame
  intro s t h
  obtain ht | ⟨hph, rfl⟩ := writeStep_cases h
  · rw [ht]
    exact ⟨rfl, fun _ => ⟨rfl, rfl⟩⟩
  · refine ⟨?_, fun hne => absurd hph hne⟩
    by_cases hfull : s.txf.length = Config.params.txDepth
    · rw [writeSend_of_full _ hfull]; rfl
    · rw [writeSend_of_room _ hfull]

end

section
/-! PROOF. What one turn can do (00_scope.md rule R10, 20_memory.md rule R88): a step of a command is one access of the
peripheral or of buffer memory and moves nothing else but the sequencer's own registers; a host's or the line side's
turn has a frame of its own. -/

namespace Sys2Proof.Machine

/-! ## The accesses of the labels -/

/-- The register writes of the commands' labels: the command, the register and the value (files 40 to 44). -/
inductive RegisterWrite (P : Params) (s : State) : Instr → Reg → Word → Prop
  | i1 (h : s.ph = .i1) : RegisterWrite P s .initialise .mode initMode
  | i2 (h : s.ph = .i2) : RegisterWrite P s .initialise .staSet (sUtxen ||| sUrxen)
  | i3 (h : s.ph = .i3) : RegisterWrite P s .initialise .brg (P.initBrg.setWidth 32)
  | i4 (h : s.ph = .i4) : RegisterWrite P s .initialise .modeSet mOn
  | s5 {cp wd par sb} (h : s.ph = .s5) : RegisterWrite P s (.serialSetup cp wd par sb) .modeClr mOn
  | s7 {cp wd par sb} (h : s.ph = .s7) :
      RegisterWrite P s (.serialSetup cp wd par sb) .mode (setupMode s.t wd par sb)
  | s8 {cp wd par sb} (h : s.ph = .s8) : RegisterWrite P s (.serialSetup cp wd par sb) .brg (s.d.setWidth 32)
  | s9 {cp wd par sb} (h : s.ph = .s9) : RegisterWrite P s (.serialSetup cp wd par sb) .modeSet mOn
  | s10 {cp wd par sb} (h : s.ph = .s10) : RegisterWrite P s (.serialSetup cp wd par sb) .staSet s.snap
  | ec2 {i} (h : s.ph = .ec2) : RegisterWrite P s i .staClr sOerr
  | w5 (h : s.ph = .w5) : RegisterWrite P s .write .txreg s.t
  | wb2 (h : s.ph = .wb2) : RegisterWrite P s .writeByte .txreg s.opaL
  | as1 {en} (h : s.ph = .as1) : RegisterWrite P s (.autobaudSet en) .modeSet mAbaud

/-- `t` is `s` but for the sequencer's own registers, RES and the draw counter. -/
def Internal (s t : State) : Prop :=
  t = { s with
    ph := t.ph, k := t.k, w := t.w, snap := t.snap, e := t.e, clk := t.clk, d := t.d, t := t.t, res := t.res
    draws := t.draws }

/-- What a step of a command can be: no access but reads without effect, a pop of the receive FIFO, a register write
performed or refused, or the buffer access of R.6 or W.4 performed or refused. -/
inductive Effect (P : Params) (i : Instr) (s t : State) : Prop
  | internal (h : Internal s t)
  | popped (h : Internal (rxPop s) t)
  | written {r : Reg} {v : Word} {u : State} (hw : RegisterWrite P s i r v) (hu : regWrite P r v s = .ok u)
      (h : Internal u t)
  | refused {r : Reg} {v : Word} {kind : FaultKind} (hw : RegisterWrite P s i r v)
      (hk : regWrite P r v s = .error kind) (h : t = raise kind s)
  | stored (hi : i = .read) (hph : s.ph = .r6) (hsize : s.w = 1 ∨ s.w = 2)
      (hcheck : memCheck P (unitAddr s) s.w.toNat = none) (h : t = { s with
        mem := Memory.writeUnit s.mem (unitAddr s) s.w.toNat (s.t.setWidth 16), k := s.k + 1, ph := .r3 })
  | bufferFault {kind : FaultKind} (hk : memCheck P (unitAddr s) s.w.toNat = some kind) (h : t = raise kind s)

section
variable {P : Params} {i : Instr} {s t : State}

theorem effect_regWrite {r : Reg} {v : Word} {go : State → State} (hw : RegisterWrite P s i r v)
    (hgo : ∀ u, Internal u (go u)) : Effect P i s (afterAccess s (regWrite P r v s) go) := by
  cases h : regWrite P r v s with
  | error kind => exact .refused hw h rfl
  | ok u => exact .written hw h (hgo u)

/-! ## Each command's step is one of these: `h_n` is the n-th clause of the command's step -/

theorem initialiseStep_effect (h : initialiseStep P s = .next t) : Effect P .initialise s t := by
  unfold initialiseStep at h
  split at h <;> cases h
  case h_1 hph => exact effect_regWrite (.i1 hph) fun _ => rfl
  case h_2 hph => exact effect_regWrite (.i2 hph) fun _ => rfl
  case h_3 hph => exact effect_regWrite (.i3 hph) fun _ => rfl
  case h_4 hph => exact effect_regWrite (.i4 hph) fun _ => rfl

theorem serialSetupStep_effect {cp wd : Bool} {par : BitVec 2} {sb : Bool}
    (h : serialSetupStep P cp wd par sb s = .next t) : Effect P (.serialSetup cp wd par sb) s t := by
  unfold serialSetupStep at h
  split at h
  · cases h
  split at h
  case h_3 =>
    split at h <;> cases h
    refine .internal ?_
    rw [setupDivisor_eq]
    split_ifs <;> exact rfl
  all_goals cases h
  case h_1 =>
    refine .internal ?_
    unfold setupValidate
    split_ifs <;> exact rfl
  case h_2 => exact .internal rfl
  case h_4 => exact .internal rfl
  case h_5 hph => exact effect_regWrite (.s5 hph) fun _ => rfl
  case h_6 => exact .internal rfl
  case h_7 hph => exact effect_regWrite (.s7 hph) fun _ => rfl
  case h_8 hph => exact effect_regWrite (.s8 hph) fun _ => rfl
  case h_9 hph => exact effect_regWrite (.s9 hph) fun _ => rfl
  case h_10 hph => exact effect_regWrite (.s10 hph) fun _ => rfl

theorem errorClearLatch_effect (hph : s.ph = .ec2) : Effect P i s (errorClearLatch P s) :=
  effect_regWrite (.ec2 hph) fun _ => rfl

theorem errorGetStep_effect (h : errorGetStep P s = .next t) : Effect P .errorGet s t := by
  unfold errorGetStep at h
  split at h <;> cases h
  case h_1 =>
    refine .internal ?_
    by_cases hclean : s.oerr = false ∧ ferr P s = false ∧ perr P s = false
    · rw [errorGetQuery_of_clean P s hclean]; exact rfl
    · rw [errorGetQuery_of_error P s hclean]; exact rfl
  case h_2 => exact .internal rfl
  case h_3 hph => exact errorClearLatch_effect hph
  case h_4 => exact .internal rfl
  case h_5 => exact .popped rfl
  case h_6 => exact .internal rfl

theorem readStep_effect (h : readStep P s = .next t) : Effect P .read s t := by
  obtain ht | ⟨hph, rfl⟩ | ⟨-, rfl⟩ | ⟨-, rfl⟩ | ⟨hph, hw, rfl⟩ := readStep_cases h
  · refine .internal ?_
    rw [ht]; exact rfl
  · exact errorClearLatch_effect hph
  · exact .popped rfl
  · exact .popped rfl
  · obtain ⟨kind, hcheck, hfault⟩ | ⟨hcheck, hstore⟩ := readStore_cases P (s := s)
    · exact .bufferFault hcheck hfault
    · exact .stored rfl hph hw hcheck hstore

theorem writeStep_effect (h : writeStep P s = .next t) : Effect P .write s t := by
  unfold writeStep at h
  split at h
  case h_5 =>
    split at h <;> cases h
    cases hcheck : memCheck P (unitAddr s) s.w.toNat with
    | some kind => exact .bufferFault hcheck (writeFetch_of_fault P hcheck)
    | none => rw [writeFetch_of_admitted P hcheck]; exact .internal rfl
  all_goals cases h
  case h_1 => unfold writeStart; split_ifs <;> exact .internal rfl
  case h_2 => exact .internal rfl
  case h_3 => unfold countTest; split_ifs <;> exact .internal rfl
  case h_4 => exact .internal rfl
  case h_6 hph => exact effect_regWrite (.w5 hph) fun _ => rfl

theorem writeByteStep_effect (h : writeByteStep P s = .next t) : Effect P .writeByte s t := by
  unfold writeByteStep at h
  split at h <;> cases h
  case h_1 => exact .internal rfl
  case h_2 hph => exact effect_regWrite (.wb2 hph) fun _ => rfl

theorem readByteStep_effect (h : readByteStep P s = .next t) : Effect P .readByte s t := by
  unfold readByteStep at h
  split at h <;> cases h
  exact .popped rfl

theorem predicateStep_effect {answer : Word → Bool} (h : predicateStep P answer s = .next t) : Effect P i s t := by
  unfold predicateStep at h
  split at h <;> cases h
  exact .internal rfl

theorem autobaudQueryStep_effect (h : autobaudQueryStep P s = .next t) : Effect P .autobaudQuery s t := by
  unfold autobaudQueryStep at h
  split at h <;> cases h
  exact .internal rfl

theorem autobaudSetStep_effect {en : Bool} (h : autobaudSetStep P en s = .next t) :
    Effect P (.autobaudSet en) s t := by
  unfold autobaudSetStep at h
  split at h <;> cases h
  next hph =>
    split_ifs
    · exact .internal rfl
    · exact effect_regWrite (.as1 hph) fun _ => rfl

theorem exec_effect (h : exec i s = .next t) : Effect Config.params i s t := by
  cases i with
  | initialise => exact initialiseStep_effect h
  | serialSetup cp wd par sb => exact serialSetupStep_effect h
  | errorGet => exact errorGetStep_effect h
  | read => exact readStep_effect h
  | write => exact writeStep_effect h
  | writeByte => exact writeByteStep_effect h
  | readByte => exact readByteStep_effect h
  | txReady | rxReady | txComplete => exact predicateStep_effect h
  | autobaudQuery => exact autobaudQueryStep_effect h
  | autobaudSet en => exact autobaudSetStep_effect h

/-- A sequencer's turn that is a step leaves the state, or has the effect of a step of the latched command. -/
theorem sequencerTurn_effect (h : sequencerTurn s = .next t) :
    t = s ∨ ∃ i, decode s.cmdL = .command i ∧ Effect Config.params i s t := by
  unfold sequencerTurn at h
  split at h
  · cases h; exact .inl rfl
  · cases h; exact .inl rfl
  · split at h
    · next i hdecode => exact .inr ⟨i, hdecode, exec_effect h⟩
    · cases h

end

/-! ## The frames of the other agents' turns -/

section
variable (s : State)

theorem accept_frame (W : Word) : accept W s = { s with
    cmd := W, cmdL := W, opaL := s.opa, opbL := s.opb
    res := (accept W s).res, k := (accept W s).k, ph := (accept W s).ph } := by
  cases hW : decode W with
  | illegal why => rw [accept_illegal W s why hW]
  | command i => rw [accept_command W s i hW]

/-- A host's turn moves nothing of the peripheral. -/
theorem hostTurn_frame (a : HostAction) : hostTurn a s = { s with
    ph := (hostTurn a s).ph, cmdL := (hostTurn a s).cmdL, opaL := (hostTurn a s).opaL, opbL := (hostTurn a s).opbL
    k := (hostTurn a s).k, cmd := (hostTurn a s).cmd, opa := (hostTurn a s).opa, opb := (hostTurn a s).opb
    res := (hostTurn a s).res, fault := (hostTurn a s).fault, mem := (hostTurn a s).mem
    turns := (hostTurn a s).turns } := by
  cases a with
  | writePort off v =>
    simp only [hostTurn, hostWrite]
    split_ifs
    · obtain ⟨-, h⟩ | ⟨-, h⟩ | ⟨-, -, h⟩ := writeCmd_cases v s
      · rw [h, accept_frame]
      · rw [h]
      · rw [h]; rfl
    all_goals rfl
  | writeMem addr v =>
    simp only [hostTurn]
    obtain h | ⟨-, h⟩ := hostWriteMem_cases addr v s
    · rw [h]
    · rw [h]; rfl
  | pollBusy => simp only [hostTurn]; rw [pollBusy_frame]
  | readPort | readMem => rfl

/-- The host's turn moves memory only by its write of a byte. -/
theorem hostTurn_mem (a : HostAction) : (hostTurn a s).mem = s.mem ∨
    ∃ addr v, a = .writeMem addr v ∧ (hostTurn a s).mem = Memory.write s.mem addr.toNat v := by
  cases a with
  | writeMem addr v =>
    right
    refine ⟨addr, v, rfl, ?_⟩
    simp only [hostTurn]
    obtain h | ⟨-, h⟩ := hostWriteMem_cases addr v s
    · rw [h]
    · rw [h]; rfl
  | writePort off v =>
    left
    simp only [hostTurn, hostWrite]
    split_ifs
    · obtain ⟨-, h⟩ | ⟨-, h⟩ | ⟨-, -, h⟩ := writeCmd_cases v s
      · rw [h, accept_frame]
      · rw [h]
      · rw [h]; rfl
    all_goals rfl
  | pollBusy => left; simp only [hostTurn]; rw [pollBusy_frame]
  | readPort | readMem => exact .inl rfl

theorem lineEffect_frame (P : Params) (e : LineEvent) : lineEffect P e s = { s with
    mode := (lineEffect P e s).mode, oerr := (lineEffect P e s).oerr, brg := (lineEffect P e s).brg
    rxf := (lineEffect P e s).rxf, txf := (lineEffect P e s).txf, tsr := (lineEffect P e s).tsr
    lineOut := (lineEffect P e s).lineOut } := by
  cases e with
  | rx data ferr perr => simp only [lineEffect, receive]; split <;> rfl
  | load => simp only [lineEffect, transmitLoad]; split <;> rfl
  | done => simp only [lineEffect, transmitDone]; split <;> rfl
  | autobaud brg => rfl

/-- A line event's turn moves nothing but the peripheral's mode, divisor, overrun latch, FIFOs, TSR and the line. -/
theorem lineTurn_frame (P : Params) (e : LineEvent) : lineTurn P e s = { s with
    mode := (lineTurn P e s).mode, oerr := (lineTurn P e s).oerr, brg := (lineTurn P e s).brg
    rxf := (lineTurn P e s).rxf, txf := (lineTurn P e s).txf, tsr := (lineTurn P e s).tsr
    lineOut := (lineTurn P e s).lineOut } := by
  obtain h | ⟨-, h⟩ := lineTurn_cases P e s
  · rw [h]
  · rw [h]; exact lineEffect_frame s P e

end

/-! ## Memory, the line and the divisor through a turn -/

section
variable {P : Params} {i : Instr} {s t : State}

/-- A write of STA's image moves the bits it stores, the overrun latch, the receive FIFO and the draw counter (R81). -/
theorem writeSta_frame (c : Word) : writeSta P c s = { s with
    staHi := c.extractLsb' 13 12, urxen := c.getLsbD 12, utxbrk := c.getLsbD 11, utxen := c.getLsbD 10
    staLo := c.extractLsb' 5 3, oerr := s.oerr && c.getLsbD 1
    rxf := (writeSta P c s).rxf, draws := (writeSta P c s).draws } := by
  unfold writeSta
  dsimp only
  split
  · rw [oerrClearEffect_frame]
  · rfl

/-- A performed register write moves nothing but the peripheral and the draw counter, and puts nothing on the line. -/
theorem regWrite_frame {r : Reg} {v : Word} (h : regWrite P r v s = .ok t) : t = { s with
    mode := t.mode, oerr := t.oerr, utxen := t.utxen, utxbrk := t.utxbrk, urxen := t.urxen, staLo := t.staLo
    staHi := t.staHi, brg := t.brg, rxf := t.rxf, txf := t.txf, tsr := t.tsr, draws := t.draws } := by
  obtain ⟨new, h⟩ | ⟨c, rfl⟩ | ⟨-, -, rfl⟩ | ⟨-, -, rfl⟩ | ⟨-, rfl⟩ := regWrite_cases P s h
  · obtain rfl | ⟨-, -, rfl⟩ := writeMode_cases P s new t h
    · rfl
    · rw [disableEffect_frame]
  · rw [writeSta_frame]
  · rfl
  · rfl
  · rfl

/-- BRG moves by a write of BRG only (R48). -/
theorem regWrite_brg {r : Reg} {v : Word} (h : regWrite P r v s = .ok t) (hr : r ≠ .brg) : t.brg = s.brg := by
  obtain ⟨new, h⟩ | ⟨c, rfl⟩ | ⟨hbrg, -, -⟩ | ⟨-, -, rfl⟩ | ⟨-, rfl⟩ := regWrite_cases P s h
  · obtain rfl | ⟨-, -, rfl⟩ := writeMode_cases P s new t h
    · rfl
    · exact disableEffect_brg P _
  · exact writeSta_brg P s c
  · exact absurd hbrg hr
  · rfl
  · rfl

theorem Internal.mem (h : Internal s t) : t.mem = s.mem := by rw [Internal] at h; rw [h]
theorem Internal.brg (h : Internal s t) : t.brg = s.brg := by rw [Internal] at h; rw [h]

theorem Effect.mem (h : Effect P i s t) : t.mem = s.mem ∨ (i = .read ∧ s.ph = .r6 ∧ (s.w = 1 ∨ s.w = 2) ∧
    memCheck P (unitAddr s) s.w.toNat = none ∧
    t.mem = Memory.writeUnit s.mem (unitAddr s) s.w.toNat (s.t.setWidth 16)) := by
  cases h with
  | internal h => exact .inl h.mem
  | popped h => exact .inl (h.mem.trans (rxPop_mem s))
  | written hw hu h => exact .inl (h.mem.trans (by rw [regWrite_frame hu]))
  | refused hw hk h => exact .inl (by rw [h, raise_mem])
  | stored hi hph hsize hcheck h => exact .inr ⟨hi, hph, hsize, hcheck, by rw [h]⟩
  | bufferFault hk h => exact .inl (by rw [h, raise_mem])

/-- No step of a command moves the latched command, the host's registers, the line or the schedule. -/
theorem Effect.frame (h : Effect P i s t) : t = { s with
    ph := t.ph, k := t.k, w := t.w, snap := t.snap, e := t.e, clk := t.clk, d := t.d, t := t.t, res := t.res
    fault := t.fault, mode := t.mode, oerr := t.oerr, utxen := t.utxen, utxbrk := t.utxbrk, urxen := t.urxen
    staLo := t.staLo, staHi := t.staHi, brg := t.brg, rxf := t.rxf, txf := t.txf, tsr := t.tsr, mem := t.mem
    draws := t.draws } := by
  cases h with
  | internal h => rw [Internal] at h; rw [h]
  | popped h => rw [Internal, rxPop_frame] at h; rw [h]
  | written hw hu h => rw [Internal, regWrite_frame hu] at h; rw [h]
  | refused hw hk h => rw [h]; rfl
  | stored hi hph hsize hcheck h => rw [h]
  | bufferFault hk h => rw [h]; rfl

theorem Effect.brg (h : Effect P i s t) : t.brg = s.brg ∨ ∃ v, RegisterWrite P s i .brg v := by
  cases h with
  | internal h => exact .inl h.brg
  | popped h => exact .inl (h.brg.trans (rxPop_brg s))
  | @written r v u hw hu h =>
    by_cases hr : r = .brg
    · exact .inr ⟨v, hr ▸ hw⟩
    · exact .inl (h.brg.trans (regWrite_brg hu hr))
  | refused hw hk h => exact .inl (by rw [h, raise_brg])
  | stored hi hph hsize hcheck h => exact .inl (by rw [h])
  | bufferFault hk h => exact .inl (by rw [h, raise_brg])

theorem Memory.writeUnit_wf (hsize : s.w = 1 ∨ s.w = 2) (hcheck : memCheck P (unitAddr s) s.w.toNat = none)
    (v : Half) (hwf : Memory.wf s.mem) : Memory.wf (Memory.writeUnit s.mem (unitAddr s) s.w.toNat v) :=
  memWrite_wf P s _ _ v _ (width_toNat hsize) hwf (memWrite_ok hcheck)

theorem Memory.read_writeUnit_other (hsize : s.w = 1 ∨ s.w = 2)
    (hcheck : memCheck P (unitAddr s) s.w.toNat = none) (v : Half) {a : Nat}
    (ha : a < unitAddr s ∨ unitAddr s + s.w.toNat ≤ a) :
    Memory.read (Memory.writeUnit s.mem (unitAddr s) s.w.toNat v) a = Memory.read s.mem a :=
  memWrite_other P s _ _ v _ (width_toNat hsize) (memWrite_ok hcheck) a ha

/-! ## Memory and the line through an agent's turn -/

theorem takeTurn_mem_wf {turn : Turn} (hwf : Memory.wf s.mem) (h : takeTurn turn s = .next t) : Memory.wf t.mem := by
  cases turn with
  | sequencer =>
    obtain rfl | ⟨i, -, heffect⟩ := sequencerTurn_effect h
    · exact hwf
    obtain hmem | ⟨-, -, hsize, hcheck, hmem⟩ := heffect.mem
    · rwa [hmem]
    · rw [hmem]; exact Memory.writeUnit_wf hsize hcheck _ hwf
  | line e => cases h; rw [lineTurn_frame]; exact hwf
  | host a =>
    cases h
    obtain hmem | ⟨addr, v, -, hmem⟩ := hostTurn_mem s a
    · rwa [hmem]
    · rw [hmem]; exact Memory.write_wf _ _ _ addr.isLt hwf
  | reset => cases h; exact hwf

theorem lineTurn_lineOut_prefix (e : LineEvent) (s : State) : s.lineOut <+: (lineTurn P e s).lineOut := by
  obtain h | ⟨-, h⟩ := lineTurn_cases P e s
  · rw [h]
  rw [h]
  cases e with
  | rx data ferr perr => simp only [lineEffect, receive]; split <;> exact List.prefix_rfl
  | load => simp only [lineEffect, transmitLoad]; split <;> exact List.prefix_rfl
  | done =>
    simp only [lineEffect, transmitDone]
    split
    · exact List.prefix_rfl
    · exact List.prefix_append _ _
  | autobaud brg => exact List.prefix_rfl

theorem takeTurn_lineOut_prefix {turn : Turn} (h : takeTurn turn s = .next t) : s.lineOut <+: t.lineOut := by
  cases turn with
  | sequencer =>
    obtain rfl | ⟨i, -, heffect⟩ := sequencerTurn_effect h
    · exact List.prefix_rfl
    · rw [heffect.frame]
  | line e => cases h; exact lineTurn_lineOut_prefix e s
  | host a => cases h; rw [hostTurn_frame]
  | reset => cases h; exact List.prefix_rfl

/-- MODE and BRG are moved by one line event only, autobaud completion (R203). -/
theorem lineTurn_configuration (e : LineEvent) (s : State) :
    ((lineTurn P e s).mode = s.mode ∧ (lineTurn P e s).brg = s.brg) ∨ ∃ v, e = .autobaud v := by
  obtain h | ⟨-, h⟩ := lineTurn_cases P e s
  · rw [h]; exact .inl ⟨rfl, rfl⟩
  rw [h]
  cases e with
  | rx data ferr perr => left; simp only [lineEffect, receive]; split <;> exact ⟨rfl, rfl⟩
  | load => left; simp only [lineEffect, transmitLoad]; split <;> exact ⟨rfl, rfl⟩
  | done => left; simp only [lineEffect, transmitDone]; split <;> exact ⟨rfl, rfl⟩
  | autobaud v => exact .inr ⟨v, rfl⟩

end

end Sys2Proof.Machine

open Sys2Proof Sys2Proof.Machine

/-- Settles O7: a step is the turn at the head of the schedule, the sequencer's when there is none. -/
theorem stepRunsLatchedCommand : Obligations.StepRunsLatchedCommand := by
  unfold Obligations.StepRunsLatchedCommand
  refine fun s => ⟨fun i hidle hfaulted hdecode => ⟨fun hnil => ?alone, fun rest hcons => ?scheduled⟩,
    fun hph => ?none, fun turn rest => step_cons s turn rest⟩
  case alone => rw [step_nil s hnil, sequencerTurn_label s i hidle hfaulted hdecode]
  case scheduled =>
    rw [step_cons s _ rest hcons]
    exact sequencerTurn_label { s with turns := rest } i hidle hfaulted hdecode
  case none =>
    have hstays : sequencerTurn s = .next s := hph.elim (sequencerTurn_idle s) (sequencerTurn_faulted s)
    exact ⟨fun hnil => (step_nil s hnil).trans hstays, hstays⟩

/-- Settles O6: a step is an agent's turn, and memory moves only by R.6's store and the host's write, both of which keep
the form. -/
theorem stepKeepsMemoryCanonical : Obligations.StepKeepsMemoryCanonical := by
  unfold Obligations.StepKeepsMemoryCanonical
  intro s t hwf h
  obtain ⟨turn, hturn⟩ := step_is_turn s
  exact takeTurn_mem_wf (s := { s with turns := s.turns.tail }) hwf (hturn ▸ h)

/-- Settles O8: only transmit done moves LINE_OUT, by a record at its end. -/
theorem lineOutOnlyGrows : Obligations.LineOutOnlyGrows := by
  unfold Obligations.LineOutOnlyGrows
  intro s t h
  obtain ⟨turn, hturn⟩ := step_is_turn s
  exact takeTurn_lineOut_prefix (s := { s with turns := s.turns.tail }) (hturn ▸ h)

/-- Settles O9: of the effects of a step of a command only R.6's store moves memory, within the unit; of the host's
actions only its write, at the one byte. -/
theorem memoryChangesOnlyByHostOrReadStore : Obligations.MemoryChangesOnlyByHostOrReadStore := by
  unfold Obligations.MemoryChangesOnlyByHostOrReadStore
  intro s t turn a h hmoved
  cases turn with
  | sequencer =>
    right
    obtain rfl | ⟨i, hdecode, heffect⟩ := sequencerTurn_effect h
    · exact absurd rfl hmoved
    obtain hmem | ⟨rfl, hph, hsize, hcheck, hmem⟩ := heffect.mem
    · exact absurd (by rw [hmem]) hmoved
    · rw [hmem] at hmoved
      refine ⟨rfl, hph, hdecode, ?_⟩
      by_contra houtside
      exact hmoved (Memory.read_writeUnit_other hsize hcheck _ (by omega))
  | line e => cases h; exact absurd (by rw [lineTurn_frame]) hmoved
  | host action =>
    left
    cases h
    obtain hmem | ⟨addr, v, rfl, hmem⟩ := hostTurn_mem s action
    · exact absurd (by rw [hmem]) hmoved
    · rw [hmem] at hmoved
      refine ⟨addr, v, rfl, ?_⟩
      by_contra hother
      exact hmoved (Memory.read_write_other _ _ (Ne.symm hother))
  | reset => cases h; exact absurd rfl hmoved

/-- Settles O10: of the labels' register writes two are of BRG, I.3's and S.8's; of the line events one moves it. -/
theorem divisorChangesOnlyByItsWriters : Obligations.DivisorChangesOnlyByItsWriters := by
  unfold Obligations.DivisorChangesOnlyByItsWriters
  intro s t turn h hmoved
  cases turn with
  | sequencer =>
    obtain rfl | ⟨i, hdecode, heffect⟩ := sequencerTurn_effect h
    · exact absurd rfl hmoved
    obtain hbrg | ⟨v, hwrite⟩ := heffect.brg
    · exact absurd hbrg hmoved
    cases hwrite with
    | i3 hph => exact .inl ⟨rfl, hph, hdecode⟩
    | s8 hph => exact .inr (.inl ⟨rfl, hph, _, _, _, _, hdecode⟩)
  | line e =>
    cases h
    obtain ⟨-, hbrg⟩ | ⟨v, rfl⟩ := lineTurn_configuration e s
    · exact absurd hbrg hmoved
    · exact .inr (.inr (.inl ⟨v, rfl⟩))
  | host a => cases h; exact absurd (by rw [hostTurn_frame]) hmoved
  | reset => exact .inr (.inr (.inr rfl))

end

section
/-! PROOF. The transmit side and the autobaud bit through a turn (42_transfer.md rule R156, 44_autobaud.md rule R182,
60_exceptions.md rules R201 to R204): which register writes keep the units handed over in order, which keep ABAUD, and
that fairness empties TSR. -/

namespace Sys2Proof.Machine

open Sys2Proof.Safety

section
variable {P : Params} {i : Instr} {s t u : State} {v : Word}

/-! ## A performed write, by its register -/

/-- A MODESET write turns nothing off, so it has no effect beyond MODE. -/
theorem regWrite_modeSet_ok (h : regWrite P .modeSet v s = .ok t) :
    t = { s with mode := s.mode ||| v.setWidth 16 } := by
  have hwrite : writeMode P (s.mode ||| v.setWidth 16) s = .ok t := by rw [← modeImage_or]; exact h
  obtain rfl | ⟨hon, hoff, -⟩ := writeMode_cases P s _ t hwrite
  · rfl
  · simp [hon] at hoff

theorem regWrite_staSet_ok (h : regWrite P .staSet v s = .ok t) : t = writeSta P (staOld P s ||| v) s :=
  (Except.ok.inj h).symm

theorem regWrite_staClr_ok (h : regWrite P .staClr v s = .ok t) : t = writeSta P (staOld P s &&& ~~~v) s :=
  (Except.ok.inj h).symm

theorem regWrite_brg_ok (h : regWrite P .brg v s = .ok t) :
    modeOn s.mode = false ∧ t = { s with brg := v.setWidth 16 } := by
  cases hon : modeOn s.mode with
  | true => rw [regWrite_brg_on P v hon] at h; cases h
  | false =>
    have hperformed : regWrite P .brg v s = .ok { s with brg := v.setWidth 16 } := if_neg (by simp [hon])
    rw [hperformed] at h
    cases h
    exact ⟨rfl, rfl⟩

theorem regWrite_txreg_ok (h : regWrite P .txreg v s = .ok t) :
    s.txf.length ≠ P.txDepth ∧ t = { s with txf := s.txf ++ [keptUnit s.mode v] } := by
  by_cases hfull : s.txf.length = P.txDepth
  · rw [regWrite_txreg_full P s v hfull] at h; cases h
  · rw [regWrite_txreg_room P s v hfull] at h; cases h; exact ⟨hfull, rfl⟩

/-! ## The units handed to the transmitter (R156) -/

/-- The units handed over are as they were, or one more stands at the end. -/
def TransmitsInOrder (s t : State) : Prop :=
  transmitted t = transmitted s ∨ ∃ x, transmitted t = transmitted s ++ [x]

theorem transmitted_congr (hline : t.lineOut = s.lineOut) (htsr : t.tsr = s.tsr) (htxf : t.txf = s.txf) :
    transmitted t = transmitted s := by
  unfold transmitted; rw [hline, htsr, htxf]

theorem Internal.transmitted (h : Internal s t) : transmitted t = transmitted s := by
  rw [Internal] at h; rw [h]; rfl

theorem transmitted_writeSta (c : Word) : transmitted (writeSta P c s) = transmitted s :=
  transmitted_congr (writeSta_lineOut P s c) (writeSta_tsr P s c) (writeSta_txf P s c)

/-- Of the labels' writes those of MODE and MODECLR may flush the transmit side; TXREG's appends, the others leave it. -/
theorem RegisterWrite.transmitsInOrder {r : Reg} (hw : RegisterWrite P s i r v) (hu : regWrite P r v s = .ok u)
    (hph : s.ph ≠ .i1 ∧ s.ph ≠ .s5 ∧ s.ph ≠ .s7) : TransmitsInOrder s u := by
  obtain ⟨hi1, hs5, hs7⟩ := hph
  cases hw with
  | i1 h => exact absurd h hi1
  | s5 h => exact absurd h hs5
  | s7 h => exact absurd h hs7
  | i4 | s9 | as1 => rw [regWrite_modeSet_ok hu]; exact .inl rfl
  | i2 | s10 => rw [regWrite_staSet_ok hu]; exact .inl (transmitted_writeSta _)
  | ec2 => rw [regWrite_staClr_ok hu]; exact .inl (transmitted_writeSta _)
  | i3 | s8 => rw [(regWrite_brg_ok hu).2]; exact .inl rfl
  | w5 | wb2 => rw [(regWrite_txreg_ok hu).2]; exact .inr ⟨_, (List.append_assoc ..).symm⟩

theorem Effect.transmitsInOrder (h : Effect P i s t) (hph : s.ph ≠ .i1 ∧ s.ph ≠ .s5 ∧ s.ph ≠ .s7) :
    TransmitsInOrder s t := by
  cases h with
  | internal h => exact .inl h.transmitted
  | popped h => exact .inl (h.transmitted.trans (transmitted_congr (rxPop_lineOut s) (rxPop_tsr s) (rxPop_txf s)))
  | written hw hu h => rw [TransmitsInOrder, h.transmitted]; exact hw.transmitsInOrder hu hph
  | refused hw hk h => rw [h]; exact .inl rfl
  | stored hi hr6 hsize hcheck h => rw [h]; exact .inl rfl
  | bufferFault hk h => rw [h]; exact .inl rfl

theorem lineTurn_transmitted (e : LineEvent) (s : State) : transmitted (lineTurn P e s) = transmitted s := by
  obtain h | ⟨hguard, h⟩ := lineTurn_cases P e s
  · rw [h]
  rw [h]
  cases e with
  | rx data ferr perr => simp only [lineEffect, receive]; split <;> rfl
  | load =>
    obtain ⟨-, -, htsr, htxf⟩ := (lineEnabled_load_iff P).1 hguard
    obtain ⟨unit, rest, hcons⟩ := List.exists_cons_of_ne_nil htxf
    simp only [lineEffect]
    rw [transmitLoad_cons hcons]
    simp [transmitted, htsr, hcons]
  | done =>
    obtain ⟨record, hrecord⟩ := Option.ne_none_iff_exists'.1 ((lineEnabled_done_iff P).1 hguard)
    simp only [lineEffect]
    rw [transmitDone_some hrecord]
    simp [transmitted, hrecord]
  | autobaud brg => rfl

/-! ## The autobaud bit (R182) -/

theorem Internal.mode (h : Internal s t) : t.mode = s.mode := by rw [Internal] at h; rw [h]

theorem regWrite_initMode_autobaud (hon : modeOn s.mode = true) (habaud : modeAbaud s.mode = true) :
    regWrite P .mode initMode s = .error .abaudCleared := writeMode_initMode_autobaud P s ⟨hon, habaud⟩

/-- A label's write leaves a set ABAUD set, but for INITIALIZE's with ON = 0. -/
theorem RegisterWrite.keeps_abaud {r : Reg} (hw : RegisterWrite P s i r v) (hu : regWrite P r v s = .ok u)
    (hread : s.ph = .s7 → s.t = modeImage s) (habaud : modeAbaud s.mode = true) :
    modeAbaud u.mode = true ∨ (s.ph = .i1 ∧ i = .initialise ∧ modeOn s.mode = false) := by
  cases hw with
  | i1 hph =>
    refine .inr ⟨hph, rfl, eq_false_of_ne_true fun hon => ?_⟩
    rw [regWrite_initMode_autobaud hon habaud] at hu
    cases hu
  | s5 =>
    left
    rw [regWrite_modeClr_on] at hu
    cases hu
    split_ifs <;> simp [modeAbaud_not_mOn, habaud]
  | @s7 _ wd par sb hph =>
    have hnew : modeAbaud ((setupMode s.t wd par sb).setWidth 16) = true := by
      rw [setupMode_abaud, hread hph, modeAbaud_modeImage, habaud]
    obtain rfl | ⟨-, -, rfl⟩ := writeMode_cases P s _ u hu
    · exact .inl hnew
    · exact .inl (by rw [disableEffect_mode]; exact hnew)
  | i4 | s9 | as1 => rw [regWrite_modeSet_ok hu, modeAbaud_or, habaud]; exact .inl rfl
  | i2 | s10 => rw [regWrite_staSet_ok hu, writeSta_mode]; exact .inl habaud
  | ec2 => rw [regWrite_staClr_ok hu, writeSta_mode]; exact .inl habaud
  | i3 | s8 => rw [(regWrite_brg_ok hu).2]; exact .inl habaud
  | w5 | wb2 => rw [(regWrite_txreg_ok hu).2]; exact .inl habaud

theorem Effect.keeps_abaud (h : Effect P i s t) (hread : s.ph = .s7 → s.t = modeImage s)
    (habaud : modeAbaud s.mode = true) :
    modeAbaud t.mode = true ∨ (s.ph = .i1 ∧ i = .initialise ∧ modeOn s.mode = false) := by
  cases h with
  | internal h => rw [h.mode]; exact .inl habaud
  | popped h => rw [h.mode, rxPop_mode]; exact .inl habaud
  | written hw hu h => rw [h.mode]; exact hw.keeps_abaud hu hread habaud
  | refused hw hk h => rw [h]; exact .inl habaud
  | stored hi hr6 hsize hcheck h => rw [h]; exact .inl habaud
  | bufferFault hk h => rw [h]; exact .inl habaud

/-! ## Transmit done (R202) -/

/-- After a turn of transmit done TSR is idle, whatever it was. -/
theorem lineTurn_done_tsr (P : Params) (s : State) : (lineTurn P .done s).tsr = none := by
  cases h : s.tsr with
  | none => rw [lineTurn_disabled P fun hguard => (lineEnabled_done_iff P).1 hguard h, h]
  | some record =>
    rw [lineTurn_enabled P ((lineEnabled_done_iff P).2 (by simp [h]))]
    simp only [lineEffect]
    rw [transmitDone_some h]

end

end Sys2Proof.Machine

open Sys2Proof Sys2Proof.Machine Sys2Proof.Safety

/-- Settles O12: a command's write flushes the transmit side only at the labels left out and else appends at most, and
load and done pass a unit on. -/
theorem transmittedUnitsStayInOrder : Obligations.TransmittedUnitsStayInOrder := by
  unfold Obligations.TransmittedUnitsStayInOrder
  intro s t turn hreset h hph
  cases turn with
  | sequencer =>
    obtain rfl | ⟨i, -, heffect⟩ := sequencerTurn_effect h
    · exact .inl rfl
    · exact heffect.transmitsInOrder (hph rfl)
  | line e => cases h; exact .inl (lineTurn_transmitted e s)
  | host a => cases h; rw [hostTurn_frame]; exact .inl rfl
  | reset => exact absurd rfl hreset

/-- Settles O11: of the labels' writes only I.1's with ON = 0 clears ABAUD, S.7's writing MODE back as it stands by the
invariant's clause `readMode`; of the line events completion alone moves MODE. -/
theorem autobaudBitLeavesOnlyByItsThreeWays : Obligations.AutobaudBitLeavesOnlyByItsThreeWays := by
  unfold Obligations.AutobaudBitLeavesOnlyByItsThreeWays
  intro s t turn hinv h habaud hleft
  have moved : t.mode ≠ s.mode := fun hmode => by rw [hmode, habaud] at hleft; cases hleft
  cases turn with
  | sequencer =>
    obtain rfl | ⟨i, hdecode, heffect⟩ := sequencerTurn_effect h
    · exact absurd rfl moved
    obtain hkept | ⟨hph, rfl, hoff⟩ := heffect.keeps_abaud hinv.readMode habaud
    · rw [hkept] at hleft; cases hleft
    · exact .inr (.inr ⟨rfl, hph, hdecode, hoff⟩)
  | line e =>
    cases h
    obtain ⟨hmode, -⟩ | ⟨v, rfl⟩ := lineTurn_configuration e s
    · exact absurd hmode moved
    · exact .inl ⟨v, rfl⟩
  | host a => cases h; exact absurd (by rw [hostTurn_frame]) moved
  | reset => exact .inr (.inl rfl)

/-- Settles O13: were TSR never idle from `n` on, transmit done would be enabled all the time, so that fairness gives it
a turn; but after its turn TSR is idle. -/
theorem fairScheduleEmptiesShiftRegister : Obligations.FairScheduleEmptiesShiftRegister := by
  unfold Obligations.FairScheduleEmptiesShiftRegister
  intro σ s hfair n
  by_contra hbusy
  push Not at hbusy
  obtain ⟨m, hm, hdone⟩ := hfair.done n fun k hk => (lineEnabled_done_iff _).2 (hbusy k hk)
  refine hbusy (m + 1) (by omega) ?_
  rw [stateAt, hdone]
  exact lineTurn_done_tsr Config.params _

end

section
/-! PROOF. The invariant as three parts: what holds of memory and the peripheral in every state, what ties the phase to
the latched command, FAULT and RES, and what each label relies on, as a table over the labels (10_state.md rule R22,
40_configuration.md rules R120, R122, 42_transfer.md rules R150, R155). -/

namespace Sys2Proof.Machine

open Sys2Proof.Safety

/-- The invariant's clauses about memory and the peripheral. -/
def PeripheralInv (s : State) : Prop :=
  Memory.wf s.mem ∧ s.rxf.length ≤ Config.params.rxDepth ∧ s.txf.length ≤ Config.params.txDepth ∧
    s.utxbrk = false ∧ (s.staLo = 0 ∧ s.staHi = 0) ∧ s.mode &&& Safety.modeOther = 0

/-- The invariant's clauses about the phase, FAULT and RES. -/
def ControlInv (s : State) : Prop :=
  (s.ph = .idle ∨ s.ph = .faulted ∨ ∃ i, decode s.cmdL = .command i ∧ s.ph ∈ labelsOf i) ∧
    (s.ph = .faulted ↔ s.fault ≠ 0) ∧ s.fault &&& ~~~reachableFaults = 0 ∧ (s.ph ≠ .idle → s.res = 0)

/-- The snapshot holds UTXEN and URXEN at most (R122). -/
def SnapClean (s : State) : Prop := s.snap &&& ~~~(sUtxen ||| sUrxen) = 0

/-- What each label relies on: the table of the invariant's clauses about labels. -/
def LabelFacts (s : State) : Phase → Prop
  | .i2 | .i3 | .i4 => modeOn s.mode = false
  | .s2 | .s3 => s.opaL ≠ 0
  | .s5 | .s10 => SnapClean s
  | .s6 | .s8 | .s9 => modeOn s.mode = false ∧ SnapClean s
  | .s7 => modeOn s.mode = false ∧ s.t = modeImage s ∧ SnapClean s
  | .r0 | .r1 | .r2 | .w0 | .w1 => s.k = 0
  | .ec1 | .ec2 | .ec3 | .ec4 => decode s.cmdL = .command .read → s.k = 0
  | .r3 | .w2 => s.w = unitSize s.mode ∧ s.k.toNat ≤ s.opbL.toNat
  | .r4 | .r5 | .r6 | .w3 => s.w = unitSize s.mode ∧ s.k.toNat < s.opbL.toNat
  | .w4 | .w5 => s.w = unitSize s.mode ∧ s.k.toNat < s.opbL.toNat ∧ s.txf.length < Config.params.txDepth
  | .wb2 => s.txf.length < Config.params.txDepth
  | _ => True

/-- The clauses of `Safety.Inv` about labels, at the label `p`. -/
def LabelClauses (s : State) (p : Phase) : Prop :=
  (offLabel p = true → modeOn s.mode = false) ∧ (p = .s7 → s.t = modeImage s) ∧
    (roomLabel p = true → s.txf.length < Config.params.txDepth) ∧
    (sampledLabel p = true → s.w = unitSize s.mode) ∧ (p = .s2 ∨ p = .s3 → s.opaL ≠ 0) ∧
    (startLabel p = true → s.k = 0) ∧ (clearLabel p = true → decode s.cmdL = .command .read → s.k = 0) ∧
    (passLabel p = true → s.k.toNat < s.opbL.toNat) ∧ (p = .r3 ∨ p = .w2 → s.k.toNat ≤ s.opbL.toNat) ∧
    (snapLabel p = true → SnapClean s)

/-- The clauses say at each label what the table says: the others are void there. -/
theorem labelClauses_iff (s : State) (p : Phase) : LabelClauses s p ↔ LabelFacts s p := by
  cases p <;>
    simp [LabelClauses, LabelFacts, offLabel, roomLabel, sampledLabel, startLabel, clearLabel, passLabel, snapLabel,
      and_assoc, and_comm]

theorem inv_iff (s : State) : Inv s ↔ PeripheralInv s ∧ ControlInv s ∧ LabelFacts s s.ph := by
  rw [← labelClauses_iff]
  constructor
  · intro h
    exact ⟨⟨h.mem, h.rxf, h.txf, h.noBreak, h.staOther, h.modeOther⟩, ⟨h.phase, h.faulted, h.faultBits, h.result⟩,
      h.off, h.readMode, h.room, h.width, h.baud, h.countStart, h.countClear, h.countPass, h.countTest, h.snap⟩
  · rintro ⟨⟨hmem, hrxf, htxf, hbreak, hsta, hmode⟩, ⟨hphase, hfaulted, hbits, hresult⟩,
      hoff, hread, hroom, hwidth, hbaud, hstart, hclear, hpass, hcount, hsnap⟩
    exact ⟨hmem, hrxf, htxf, hphase, hfaulted, hbits, hresult, hoff, hread, hroom, hwidth, hbaud, hstart, hclear,
      hpass, hcount, hbreak, hsnap, hsta, hmode⟩

/-! ## The clauses about memory and the peripheral through a step of a command -/

section
variable {P : Params} {i : Instr} {s t u : State} {v : Word}

theorem PeripheralInv.mem (h : PeripheralInv s) : Memory.wf s.mem := by
  obtain ⟨hmem, -⟩ := h; exact hmem

theorem PeripheralInv.rxf (h : PeripheralInv s) : s.rxf.length ≤ Config.params.rxDepth := by
  obtain ⟨-, hrxf, -⟩ := h; exact hrxf

theorem PeripheralInv.txf (h : PeripheralInv s) : s.txf.length ≤ Config.params.txDepth := by
  obtain ⟨-, -, htxf, -⟩ := h; exact htxf

theorem PeripheralInv.modeOther (h : PeripheralInv s) : s.mode &&& Safety.modeOther = 0 := by
  obtain ⟨-, -, -, -, -, hmode⟩ := h; exact hmode

theorem PeripheralInv.with_mode (h : PeripheralInv s) {m : Half} (hm : m &&& Safety.modeOther = 0) :
    PeripheralInv { s with mode := m } := by
  obtain ⟨hmem, hrxf, htxf, hbreak, hsta, -⟩ := h
  exact ⟨hmem, hrxf, htxf, hbreak, hsta, hm⟩

theorem PeripheralInv.with_mem (h : PeripheralInv s) {m : List Host.Cell} (hm : Memory.wf m) :
    PeripheralInv { s with mem := m } := by
  obtain ⟨-, hrest⟩ := h
  exact ⟨hm, hrest⟩

theorem PeripheralInv.with_rxf (h : PeripheralInv s) {units : List RxUnit}
    (hlen : units.length ≤ Config.params.rxDepth) : PeripheralInv { s with rxf := units } := by
  obtain ⟨hmem, -, hrest⟩ := h
  exact ⟨hmem, hlen, hrest⟩

theorem PeripheralInv.with_txf (h : PeripheralInv s) {units : List Unit9}
    (hlen : units.length ≤ Config.params.txDepth) : PeripheralInv { s with txf := units } := by
  obtain ⟨hmem, hrxf, -, hrest⟩ := h
  exact ⟨hmem, hrxf, hlen, hrest⟩

theorem PeripheralInv.disableEffect (h : PeripheralInv s) : PeripheralInv (disableEffect P s) := by
  obtain ⟨hmem, hrxf, htxf, -, hsta, hmode⟩ := h
  rw [disableEffect_frame]
  obtain ⟨hrxf', -, htxf', -⟩ | ⟨hrxf', -, htxf', -⟩ := disableEffect_flush P s
  · exact ⟨hmem, hrxf'.symm ▸ hrxf, htxf'.symm ▸ htxf, rfl, hsta, hmode⟩
  · exact ⟨hmem, hrxf'.symm ▸ Nat.zero_le _, htxf'.symm ▸ Nat.zero_le _, rfl, hsta, hmode⟩

theorem PeripheralInv.oerrClearEffect (h : PeripheralInv s) : PeripheralInv (oerrClearEffect P s) := by
  obtain ⟨hmem, hrxf, hrest⟩ := h
  rw [oerrClearEffect_frame]
  obtain hrxf' | hrxf' := oerrClearEffect_rxf P s
  · exact ⟨hmem, hrxf'.symm ▸ hrxf, hrest⟩
  · exact ⟨hmem, hrxf'.symm ▸ Nat.zero_le _, hrest⟩

theorem PeripheralInv.writeMode (h : PeripheralInv s) {new : Half} (hnew : new &&& Safety.modeOther = 0)
    (hu : writeMode P new s = .ok u) : PeripheralInv u := by
  obtain rfl | ⟨-, -, rfl⟩ := writeMode_cases P s new u hu
  · exact h.with_mode hnew
  · exact (h.with_mode hnew).disableEffect

theorem PeripheralInv.staSet (h : PeripheralInv s) (hbreak : v.getLsbD 11 = false)
    (hLo : v.extractLsb' 5 3 = 0) (hHi : v.extractLsb' 13 12 = 0) (hu : regWrite P .staSet v s = .ok u) :
    PeripheralInv u := by
  obtain ⟨hmem, hrxf, htxf, hbrk, ⟨hlo, hhi⟩, hmode⟩ := h
  rw [regWrite_staSet] at hu
  cases hu
  exact ⟨hmem, hrxf, htxf, by rw [hbrk, hbreak]; rfl, ⟨by rw [hlo, hLo]; rfl, by rw [hhi, hHi]; rfl⟩, hmode⟩

/-- S.7's image has the OTHER bits of the image it rewrites. -/
theorem setupMode_modeOther (t : Word) (wd : Bool) (par : BitVec 2) (sb : Bool) :
    (setupMode t wd par sb).setWidth 16 &&& Safety.modeOther = t.setWidth 16 &&& Safety.modeOther := by
  apply BitVec.eq_of_getLsbD_eq
  intro j hj
  rw [BitVec.getLsbD_and, BitVec.getLsbD_and, BitVec.getLsbD_setWidth, BitVec.getLsbD_setWidth,
    setupMode_getLsbD _ _ _ _ _ (by omega)]
  rcases Nat.lt_or_ge j 3 with hlow | hhigh
  · have hzero : Safety.modeOther.getLsbD j = false := by interval_cases j <;> rfl
    rw [hzero, Bool.and_false, Bool.and_false]
  · rw [if_neg (by omega), if_neg (by omega), if_neg (by omega)]

/-- A clean snapshot names no bit of STA but UTXEN and URXEN. -/
theorem SnapClean.bits (h : SnapClean s) :
    s.snap.getLsbD 11 = false ∧ s.snap.extractLsb' 5 3 = 0 ∧ s.snap.extractLsb' 13 12 = 0 := by
  have hbit {j : Nat} (hj : (~~~(sUtxen ||| sUrxen)).getLsbD j = true) : s.snap.getLsbD j = false := by
    have := congrArg (·.getLsbD j) h
    simpa [BitVec.getLsbD_and, hj] using this
  refine ⟨hbit rfl, BitVec.eq_of_getLsbD_eq fun j hj => ?lo, BitVec.eq_of_getLsbD_eq fun j hj => ?hi⟩
  case lo =>
    rw [BitVec.getLsbD_extractLsb', hbit (by interval_cases j <;> rfl)]
    simp
  case hi =>
    rw [BitVec.getLsbD_extractLsb', hbit (by interval_cases j <;> rfl)]
    simp

/-- Each label's write keeps the peripheral's clauses: no command sets an OTHER bit or UTXBRK. -/
theorem RegisterWrite.keeps_peripheral {r : Reg} (hw : RegisterWrite Config.params s i r v)
    (hu : regWrite Config.params r v s = .ok u) (h : PeripheralInv s) (hread : s.ph = .s7 → s.t = modeImage s)
    (hsnap : s.ph = .s10 → SnapClean s) : PeripheralInv u := by
  have hmode := h.modeOther
  have hset {m : Half} (hm : m &&& Safety.modeOther = 0) : (s.mode ||| m) &&& Safety.modeOther = 0 := by
    rw [BitVec.and_or_distrib_right, hmode, hm]; rfl
  cases hw with
  | i1 => exact h.writeMode (by decide) hu
  | s5 =>
    rw [regWrite_modeClr_on] at hu
    cases hu
    have hclr : s.mode &&& 0x7FFF#16 &&& Safety.modeOther = 0 := by
      rw [BitVec.and_assoc, BitVec.and_comm 0x7FFF#16, ← BitVec.and_assoc, hmode]; rfl
    split_ifs
    · exact (h.with_mode hclr).disableEffect
    · exact h.with_mode hclr
  | s7 hph => exact h.writeMode (by rw [setupMode_modeOther, hread hph, modeImage_setWidth, hmode]) hu
  | i4 | s9 | as1 => rw [regWrite_modeSet_ok hu]; exact h.with_mode (hset (by decide))
  | i2 => exact h.staSet (by decide) (by decide) (by decide) hu
  | s10 hph =>
    obtain ⟨hbreak, hLo, hHi⟩ := (hsnap hph).bits
    exact h.staSet hbreak hLo hHi hu
  | ec2 =>
    rw [regWrite_staClr_oerr] at hu
    cases hu
    split_ifs
    · exact PeripheralInv.oerrClearEffect h
    · exact h
  | i3 | s8 => rw [(regWrite_brg_ok hu).2]; exact h
  | w5 | wb2 =>
    obtain ⟨hroom, rfl⟩ := regWrite_txreg_ok hu
    have hlen := h.txf
    exact h.with_txf (by rw [List.length_append, List.length_singleton]; omega)

theorem Internal.keeps_peripheral (h : Internal s t) (hs : PeripheralInv s) : PeripheralInv t := by
  rw [Internal] at h; rw [h]; exact hs

theorem Effect.keeps_peripheral (h : Effect Config.params i s t) (hs : PeripheralInv s)
    (hread : s.ph = .s7 → s.t = modeImage s) (hsnap : s.ph = .s10 → SnapClean s) : PeripheralInv t := by
  cases h with
  | internal h => exact h.keeps_peripheral hs
  | popped h =>
    refine h.keeps_peripheral ?_
    rw [rxPop_frame]
    have hlen := hs.rxf
    exact hs.with_rxf (by rw [List.length_tail]; omega)
  | written hw hu h => exact h.keeps_peripheral (hw.keeps_peripheral hu hs hread hsnap)
  | refused hw hk h => rw [h]; exact hs
  | stored hi hph hsize hcheck h => rw [h]; exact hs.with_mem (Memory.writeUnit_wf hsize hcheck _ hs.mem)
  | bufferFault hk h => rw [h]; exact hs

end

end Sys2Proof.Machine
end

section
/-! PROOF. Every label of every command runs, and where it leads what the next label relies on holds: the step relation
of the invariant, one lemma a command, whose cases are the command's labels in the order of `labelsOf` (files 40 to
44). -/

namespace Sys2Proof.Machine

open Sys2Proof.Safety

/-- Where a step of a command leads: the command is finished, or it has faulted with a fault a run can raise, or it goes
on at one of its labels, which finds what it relies on. -/
inductive Arrives (i : Instr) (s t : State) : Prop
  | finished (hph : t.ph = .idle) (hfault : t.fault = s.fault)
  | faulted {kind : FaultKind} (hkind : kind.mask &&& ~~~reachableFaults = 0) (h : t = raise kind s)
  | label {p : Phase} (hp : p ∈ labelsOf i) (hph : t.ph = p) (hcmdL : t.cmdL = s.cmdL) (hfault : t.fault = s.fault)
      (hres : t.res = s.res) (hfacts : LabelFacts t p)

section
variable {s : State}

/-! ## INITIALIZE and SERIAL_SETUP -/

theorem exec_initialise_i4_off (h : s.ph = .i4) (hoff : modeOn s.mode = false) :
    exec .initialise s = .next (finish .ok .none 0 { s with mode := s.mode ||| 0x8000#16 }) := by
  simp [exec, execInitialise, initialiseStep, h, regWrite_modeSet_on_off _ s hoff]

theorem initialise_arrives (hmem : s.ph ∈ labelsOf .initialise) (hfacts : LabelFacts s s.ph) :
    ∃ t, exec .initialise s = .next t ∧ Arrives .initialise s t := by
  simp only [labelsOf, List.mem_cons, List.not_mem_nil, or_false] at hmem
  obtain hph | hph | hph | hph := hmem <;> rw [hph] at hfacts
  · refine ⟨_, exec_initialise_i1 hph, ?_⟩
    by_cases hautobaud : modeOn s.mode = true ∧ modeAbaud s.mode = true
    · rw [writeMode_initMode_autobaud _ s hautobaud]
      exact .faulted (kind := .abaudCleared) (by decide) rfl
    · rw [writeMode_initMode _ s hautobaud, afterAccess_ok]
      refine .label (p := .i2) (by decide) rfl ?cmdL ?fault ?res (?off : modeOn _ = false)
      case off => split_ifs <;> simp [modeOn]
      all_goals split_ifs <;> simp
  · exact ⟨_, exec_initialise_i2 hph, .label (p := .i3) (by decide) rfl rfl rfl rfl hfacts⟩
  · exact ⟨_, exec_initialise_i3 hph hfacts, .label (p := .i4) (by decide) rfl rfl rfl rfl hfacts⟩
  · exact ⟨_, exec_initialise_i4_off hph hfacts, .finished rfl rfl⟩

theorem SnapClean.of_keepBits {tx rx : Bool} (h : s.snap = keepBits tx false rx) : SnapClean s := by
  unfold SnapClean
  rw [h]
  cases tx <;> cases rx <;> rfl

theorem serialSetup_arrives {cp wd : Bool} {par : BitVec 2} {sb : Bool}
    (hwf : (Instr.serialSetup cp wd par sb).wellFormed = true) (hmem : s.ph ∈ labelsOf (.serialSetup cp wd par sb))
    (hfacts : LabelFacts s s.ph) (hbreak : s.utxbrk = false) :
    ∃ t, exec (.serialSetup cp wd par sb) s = .next t ∧ Arrives (.serialSetup cp wd par sb) s t := by
  simp only [labelsOf, List.mem_cons, List.not_mem_nil, or_false] at hmem
  obtain hph | hph | hph | hph | hph | hph | hph | hph | hph | hph := hmem <;> rw [hph] at hfacts
  · refine ⟨_, exec_serialSetup_s1 cp wd par sb s hwf hph, ?_⟩
    rw [setupValidate_eq]
    split_ifs with hcp hcombination hclk
    · exact .finished rfl rfl
    · exact .finished rfl rfl
    · exact .label (p := .s2) (by simp [labelsOf]) rfl rfl rfl rfl fun hbaud => hcombination (.inl hbaud)
    · exact .label (p := .s3) (by simp [labelsOf]) rfl rfl rfl rfl fun hbaud => hcombination (.inl hbaud)
  · exact ⟨_, exec_serialSetup_s2 hwf hph, .label (p := .s3) (by simp [labelsOf]) rfl rfl rfl rfl hfacts⟩
  · refine ⟨_, exec_serialSetup_s3 hwf hph hfacts, ?_⟩
    rw [setupDivisor_eq]
    split_ifs
    · exact .label (p := .s4) (by simp [labelsOf]) rfl rfl rfl rfl trivial
    · exact .finished rfl rfl
  · exact ⟨_, exec_serialSetup_s4 hwf hph,
      .label (p := .s5) (by simp [labelsOf]) rfl rfl rfl rfl (.of_keepBits (by rw [hbreak]))⟩
  · have hsnap : SnapClean s := hfacts
    refine ⟨_, exec_serialSetup_s5 hwf hph,
      .label (p := .s6) (by simp [labelsOf]) rfl ?cmdL ?fault ?res ⟨?off, (?snap : _ = _)⟩⟩
    case off => split_ifs <;> simp [modeOn]
    case snap => rw [← hsnap]; split_ifs <;> simp
    all_goals split_ifs <;> simp
  · obtain ⟨hoff, hsnap⟩ := hfacts
    exact ⟨_, exec_serialSetup_s6 hwf hph,
      .label (p := .s7) (by simp [labelsOf]) rfl rfl rfl rfl ⟨hoff, rfl, hsnap⟩⟩
  · obtain ⟨hoff, hread, hsnap⟩ := hfacts
    have hoff' : modeOn ((setupMode s.t wd par sb).setWidth 16) = false := by
      rw [setupMode_on, hread, modeOn_modeImage, hoff]
    exact ⟨_, exec_serialSetup_s7 hwf hph hoff,
      .label (p := .s8) (by simp [labelsOf]) rfl rfl rfl rfl ⟨hoff', hsnap⟩⟩
  · exact ⟨_, exec_serialSetup_s8 hwf hph hfacts.1,
      .label (p := .s9) (by simp [labelsOf]) rfl rfl rfl rfl hfacts⟩
  · exact ⟨_, exec_serialSetup_s9 hwf hph hfacts.1,
      .label (p := .s10) (by simp [labelsOf]) rfl rfl rfl rfl hfacts.2⟩
  · refine ⟨_, exec_serialSetup_s10 hwf hph, ?_⟩
    rw [regWrite_staSet]
    exact .finished rfl rfl

/-! ## ErrorClear and ERROR_GET -/

/-- ErrorClear's labels, in either caller: the count, which READ needs at R.2, is kept. -/
theorem errorClear_arrives {i : Instr} {back : Phase}
    (hcaller : (i = .errorGet ∧ back = .g2) ∨ (i = .read ∧ back = .r2))
    (hdecode : decode s.cmdL = .command i) (hmem : s.ph ∈ [.ec1, .ec2, .ec3, .ec4])
    (hfacts : LabelFacts s s.ph) :
    ∃ t, exec i s = .next t ∧ Arrives i s t := by
  have hlabels : ∀ p ∈ [.ec1, .ec2, .ec3, .ec4, back], p ∈ labelsOf i := by
    obtain ⟨rfl, rfl⟩ | ⟨rfl, rfl⟩ := hcaller <;> decide
  simp only [List.mem_cons, List.not_mem_nil, or_false] at hmem
  obtain hph | hph | hph | hph := hmem <;> rw [hph] at hfacts
  · refine ⟨_, exec_ec1 hcaller hph, ?_⟩
    split_ifs
    · exact .label (p := .ec2) (hlabels _ (by simp)) rfl rfl rfl rfl hfacts
    · exact .label (p := .ec3) (hlabels _ (by simp)) rfl rfl rfl rfl hfacts
  · refine ⟨_, exec_ec2 hcaller hph, ?_⟩
    rw [errorClearLatch_frame]
    exact .label (p := .ec3) (hlabels _ (by simp)) rfl rfl rfl rfl hfacts
  · refine ⟨_, exec_ec3 hcaller hph, ?_⟩
    split_ifs
    · refine .label (p := back) (hlabels _ (by simp)) rfl rfl rfl rfl ?_
      obtain ⟨rfl, rfl⟩ | ⟨rfl, rfl⟩ := hcaller
      · trivial
      · exact hfacts hdecode
    · exact .label (p := .ec4) (hlabels _ (by simp)) rfl rfl rfl rfl hfacts
  · exact ⟨_, exec_ec4 hcaller hph, .label (p := .ec3) (hlabels _ (by simp)) rfl rfl rfl rfl hfacts⟩

theorem errorGet_arrives (hdecode : decode s.cmdL = .command .errorGet) (hmem : s.ph ∈ labelsOf .errorGet)
    (hfacts : LabelFacts s s.ph) : ∃ t, exec .errorGet s = .next t ∧ Arrives .errorGet s t := by
  by_cases hclear : s.ph ∈ [.ec1, .ec2, .ec3, .ec4]
  · exact errorClear_arrives (.inl ⟨rfl, rfl⟩) hdecode hclear hfacts
  have hends : s.ph = .g1 ∨ s.ph = .g2 := by
    simp only [labelsOf, List.mem_cons, List.not_mem_nil, or_false, not_or] at hmem hclear
    tauto
  obtain hph | hph := hends
  · refine ⟨_, exec_errorGet_g1 hph, ?_⟩
    by_cases hclean : s.oerr = false ∧ ferr Config.params s = false ∧ perr Config.params s = false
    · rw [errorGetQuery_of_clean _ s hclean]
      exact .finished rfl rfl
    · rw [errorGetQuery_of_error _ s hclean]
      exact .label (p := .ec1) (by decide) rfl rfl rfl rfl fun hread => by
        rw [show decode s.cmdL = _ from hdecode] at hread; cases hread
  · exact ⟨_, exec_errorGet_g2 hph, .finished rfl rfl⟩

/-! ## READ and WRITE -/

/-- A buffer access faults MISALIGNED or MEM_REFUSED, both of which a run can raise (R75, R76, R191). -/
theorem memCheck_reachable {P : Params} {addr n : Nat} {kind : FaultKind} (h : memCheck P addr n = some kind) :
    kind.mask &&& ~~~reachableFaults = 0 := by
  unfold memCheck at h
  split_ifs at h <;> cases h <;> decide

theorem toNat_lt_of_ne {k n : Word} (hle : k.toNat ≤ n.toNat) (hne : k ≠ n) : k.toNat < n.toNat :=
  lt_of_le_of_ne hle fun h => hne (BitVec.eq_of_toNat_eq h)

/-- The count does not wrap: it is below OPB_L inside a pass. -/
theorem toNat_succ_le {k n : Word} (h : k.toNat < n.toNat) : (k + 1).toNat ≤ n.toNat := by
  have hbound := n.isLt
  rw [BitVec.toNat_add_of_lt (by simp; omega)]
  exact h

theorem read_arrives (hdecode : decode s.cmdL = .command .read) (hmem : s.ph ∈ labelsOf .read)
    (hfacts : LabelFacts s s.ph) : ∃ t, exec .read s = .next t ∧ Arrives .read s t := by
  by_cases hclear : s.ph ∈ [.ec1, .ec2, .ec3, .ec4]
  · exact errorClear_arrives (.inr ⟨rfl, rfl⟩) hdecode hclear hfacts
  have hown : s.ph ∈ [.r0, .r1, .r2, .r3, .r4, .r5, .r6] := by
    simp only [labelsOf, List.mem_cons, List.not_mem_nil, or_false, not_or] at hmem hclear ⊢
    tauto
  simp only [List.mem_cons, List.not_mem_nil, or_false] at hown
  rw [exec_read]
  obtain hph | hph | hph | hph | hph | hph | hph := hown <;> rw [hph] at hfacts
  · refine ⟨_, readStep_r0 _ hph, ?_⟩
    unfold readStart
    split_ifs
    · exact .finished rfl rfl
    · exact .label (p := .ec1) (by decide) rfl rfl rfl rfl fun _ => hfacts
    · exact .label (p := .r1) (by decide) rfl rfl rfl rfl hfacts
  · refine ⟨_, readStep_r1 _ hph, ?_⟩
    by_cases herr : lineErrors Config.params s
    · rw [readPretest_of_error _ herr]
      exact .label (p := .ec1) (by decide) rfl rfl rfl rfl fun _ => hfacts
    · rw [readPretest_of_clean _ herr]
      exact .label (p := .r2) (by decide) rfl rfl rfl rfl hfacts
  · refine ⟨_, readStep_r2 _ hph, ?_⟩
    have hk : s.k = 0 := hfacts
    rw [sampleWidth_eq]
    exact .label (p := .r3) (by decide) rfl rfl rfl rfl ⟨rfl, by rw [hk]; exact Nat.zero_le _⟩
  · obtain ⟨hw, hk⟩ := hfacts
    refine ⟨_, readStep_r3 _ hph, ?_⟩
    unfold countTest
    split_ifs with hdone
    · exact .finished rfl rfl
    · exact .label (p := .r4) (by decide) rfl rfl rfl rfl ⟨hw, toNat_lt_of_ne hk hdone⟩
  · refine ⟨_, readStep_r4 _ hph, ?_⟩
    by_cases herr : lineErrors Config.params s
    · rw [readPoll_of_error _ herr]
      exact .finished rfl rfl
    · rw [readPoll_of_clean _ herr]
      split_ifs
      · exact .label (p := .r4) (by decide) rfl rfl rfl rfl hfacts
      · exact .label (p := .r5) (by decide) rfl rfl rfl rfl hfacts
  · refine ⟨_, readStep_r5 _ hph, ?_⟩
    rw [readUnit_frame]
    exact .label (p := .r6) (by decide) rfl rfl rfl rfl hfacts
  · obtain ⟨hw, hk⟩ := hfacts
    refine ⟨_, readStep_r6 _ hph (hw ▸ unitSize_cases s.mode), ?_⟩
    obtain ⟨kind, hcheck, hfault⟩ | ⟨-, hstore⟩ := readStore_cases Config.params (s := s)
    · exact .faulted (memCheck_reachable hcheck) hfault
    · rw [hstore]
      exact .label (p := .r3) (by decide) rfl rfl rfl rfl ⟨hw, toNat_succ_le hk⟩

theorem write_arrives (hmem : s.ph ∈ labelsOf .write) (hfacts : LabelFacts s s.ph)
    (htxf : s.txf.length ≤ Config.params.txDepth) : ∃ t, exec .write s = .next t ∧ Arrives .write s t := by
  simp only [labelsOf, List.mem_cons, List.not_mem_nil, or_false] at hmem
  rw [exec_write]
  obtain hph | hph | hph | hph | hph | hph := hmem <;> rw [hph] at hfacts
  · refine ⟨_, writeStep_w0 _ hph, ?_⟩
    unfold writeStart
    split_ifs
    · exact .finished rfl rfl
    · exact .label (p := .w1) (by decide) rfl rfl rfl rfl hfacts
  · refine ⟨_, writeStep_w1 _ hph, ?_⟩
    have hk : s.k = 0 := hfacts
    rw [sampleWidth_eq]
    exact .label (p := .w2) (by decide) rfl rfl rfl rfl ⟨rfl, by rw [hk]; exact Nat.zero_le _⟩
  · obtain ⟨hw, hk⟩ := hfacts
    refine ⟨_, writeStep_w2 _ hph, ?_⟩
    unfold countTest
    split_ifs with hdone
    · exact .finished rfl rfl
    · exact .label (p := .w3) (by decide) rfl rfl rfl rfl ⟨hw, toNat_lt_of_ne hk hdone⟩
  · obtain ⟨hw, hk⟩ := hfacts
    refine ⟨_, writeStep_w3 _ hph, ?_⟩
    rw [writePoll_eq]
    split_ifs with hfull
    · exact .label (p := .w3) (by decide) rfl rfl rfl rfl ⟨hw, hk⟩
    · exact .label (p := .w4) (by decide) rfl rfl rfl rfl ⟨hw, hk, lt_of_le_of_ne htxf hfull⟩
  · refine ⟨_, writeStep_w4 _ hph (hfacts.1 ▸ unitSize_cases s.mode), ?_⟩
    cases hcheck : memCheck Config.params (unitAddr s) s.w.toNat with
    | some kind => exact .faulted (memCheck_reachable hcheck) (writeFetch_of_fault _ hcheck)
    | none =>
      rw [writeFetch_of_admitted _ hcheck]
      exact .label (p := .w5) (by decide) rfl rfl rfl rfl hfacts
  · obtain ⟨hw, hk, hroom⟩ := hfacts
    refine ⟨_, writeStep_w5 _ hph, ?_⟩
    rw [writeSend_of_room _ hroom.ne]
    exact .label (p := .w2) (by decide) rfl rfl rfl rfl ⟨hw, toNat_succ_le hk⟩

/-! ## The single-unit commands, the predicates and the autobaud commands -/

theorem writeByte_arrives (hmem : s.ph ∈ labelsOf .writeByte) (hfacts : LabelFacts s s.ph)
    (htxf : s.txf.length ≤ Config.params.txDepth) :
    ∃ t, exec .writeByte s = .next t ∧ Arrives .writeByte s t := by
  simp only [labelsOf, List.mem_cons, List.not_mem_nil, or_false] at hmem
  obtain hph | hph := hmem <;> rw [hph] at hfacts
  · refine ⟨_, exec_writeByte_wb1 hph, ?_⟩
    rw [writeBytePoll_eq]
    split_ifs with hfull
    · exact .label (p := .wb1) (by decide) rfl rfl rfl rfl trivial
    · exact .label (p := .wb2) (by decide) rfl rfl rfl rfl (lt_of_le_of_ne htxf hfull)
  · have hroom : s.txf.length < Config.params.txDepth := hfacts
    refine ⟨_, exec_writeByte_wb2 hph, ?_⟩
    rw [regWrite_txreg_room _ s _ hroom.ne]
    exact .finished rfl rfl

theorem predicateStep_arrives {i : Instr} (answer : Word → Bool) (hph : s.ph = .p1) :
    ∃ t, predicateStep Config.params answer s = .next t ∧ Arrives i s t := by
  unfold predicateStep
  rw [hph]
  exact ⟨_, rfl, .finished rfl rfl⟩

theorem autobaudSet_arrives {en : Bool} (hph : s.ph = .as1) :
    ∃ t, exec (.autobaudSet en) s = .next t ∧ Arrives (.autobaudSet en) s t := by
  cases en with
  | true =>
    refine ⟨_, exec_autobaudSet_true_as1 hph, ?_⟩
    rw [regWrite_modeSet_abaud]
    exact .finished rfl rfl
  | false => exact ⟨_, exec_autobaudSet_false_as1 hph, .finished rfl rfl⟩

/-- Every command runs at each of its labels, and leads where the next label finds what it relies on. -/
theorem exec_arrives {i : Instr} (hdecode : decode s.cmdL = .command i) (hmem : s.ph ∈ labelsOf i)
    (hfacts : LabelFacts s s.ph) (hs : PeripheralInv s) : ∃ t, exec i s = .next t ∧ Arrives i s t := by
  obtain ⟨-, -, htxf, hbreak, -, -⟩ := hs
  cases i with
  | initialise => exact initialise_arrives hmem hfacts
  | serialSetup cp wd par sb => exact serialSetup_arrives (decode_command_encode hdecode).1 hmem hfacts hbreak
  | errorGet => exact errorGet_arrives hdecode hmem hfacts
  | read => exact read_arrives hdecode hmem hfacts
  | write => exact write_arrives hmem hfacts htxf
  | writeByte => exact writeByte_arrives hmem hfacts htxf
  | readByte => exact ⟨_, exec_readByte_rb1 (List.mem_singleton.1 hmem), .finished rfl (rxPop_fault s)⟩
  | txReady | rxReady | txComplete => exact predicateStep_arrives _ (List.mem_singleton.1 hmem)
  | autobaudQuery => exact ⟨_, exec_autobaudQuery_aq1 (List.mem_singleton.1 hmem), .finished rfl rfl⟩
  | autobaudSet en => exact autobaudSet_arrives (List.mem_singleton.1 hmem)

end

end Sys2Proof.Machine
end

section
/-! PROOF. The invariant holds at reset and every turn keeps it, and from it every turn is a step (10_state.md rules
R22, R60, 60_exceptions.md rules R191, R196, R200 to R203, R210 to R212). -/

namespace Sys2Proof.Machine

open Sys2Proof.Safety

theorem labelsOf_busy {i : Instr} {p : Phase} (h : p ∈ labelsOf i) : p ≠ .idle ∧ p ≠ .faulted := by
  constructor
  · rintro rfl; cases i <;> simp [labelsOf] at h
  · rintro rfl; cases i <;> simp [labelsOf] at h

section
variable {i : Instr} {s t : State}

/-! ## The sequencer -/

theorem fault_eq_zero (hs : Inv s) (hfaulted : s.ph ≠ .faulted) : s.fault = 0 :=
  not_not.1 (mt hs.faulted.2 hfaulted)

/-- A fault a run can raise keeps the invariant, when it is raised outside IDLE. -/
theorem inv_raise (hs : Inv s) (hidle : s.ph ≠ .idle) {kind : FaultKind}
    (hkind : kind.mask &&& ~~~reachableFaults = 0) : Inv (raise kind s) := by
  obtain ⟨hper, -, -⟩ := (inv_iff s).1 hs
  have hmask : kind.mask ≠ 0 := by cases kind <;> decide
  refine (inv_iff _).2 ⟨hper, ⟨.inr (.inl rfl), iff_of_true rfl fun hzero => ?nonzero, ?bits,
    fun _ => hs.result hidle⟩, trivial⟩
  case nonzero => exact hmask (BitVec.or_eq_zero_iff.1 hzero).2
  case bits => rw [raise_fault, BitVec.and_or_distrib_right, hs.faultBits, hkind]; rfl

/-- Wherever a step of a command leads, the invariant holds. -/
theorem Arrives.inv (h : Arrives i s t) (hs : Inv s) (hidle : s.ph ≠ .idle) (hfaulted : s.ph ≠ .faulted)
    (hdecode : decode s.cmdL = .command i) (hper : PeripheralInv t) : Inv t := by
  have hzero := fault_eq_zero hs hfaulted
  cases h with
  | finished hph hfault =>
    rw [hzero] at hfault
    refine (inv_iff t).2 ⟨hper, ⟨.inl hph, iff_of_false (by simp [hph]) (not_not.2 hfault), by rw [hfault]; rfl,
      fun h => absurd hph h⟩, by rw [hph]; trivial⟩
  | faulted hkind h => rw [h]; exact inv_raise hs hidle hkind
  | label hp hph hcmdL hfault hres hfacts =>
    rw [hzero] at hfault
    subst hph
    exact (inv_iff t).2 ⟨hper, ⟨.inr (.inr ⟨i, by rw [hcmdL, hdecode], hp⟩),
      iff_of_false (labelsOf_busy hp).2 (not_not.2 hfault), by rw [hfault]; rfl,
      fun _ => hres.trans (hs.result hidle)⟩, hfacts⟩

/-- From a state of the invariant the sequencer's turn is a step, to a state of the invariant. -/
theorem sequencerTurn_inv (hs : Inv s) : ∃ t, sequencerTurn s = .next t ∧ Inv t := by
  obtain hidle | hfaulted | ⟨i, hdecode, hmem⟩ := hs.phase
  · exact ⟨s, sequencerTurn_idle s hidle, hs⟩
  · exact ⟨s, sequencerTurn_faulted s hfaulted, hs⟩
  · obtain ⟨hidle, hfaulted⟩ := labelsOf_busy hmem
    obtain ⟨hper, -, hfacts⟩ := (inv_iff s).1 hs
    obtain ⟨t, hexec, harrives⟩ := exec_arrives hdecode hmem hfacts hper
    exact ⟨t, (sequencerTurn_label s i hidle hfaulted hdecode).trans hexec,
      harrives.inv hs hidle hfaulted hdecode
        ((exec_effect hexec).keeps_peripheral hper hs.readMode fun hph => hs.snap (by rw [hph]; rfl))⟩

/-! ## The line side -/

/-- Completion clears ABAUD and no other bit (R203). -/
theorem autobaudComplete_mode (m : Half) : modeOn (m &&& 0xFFDF#16) = modeOn m ∧
    unitSize (m &&& 0xFFDF#16) = unitSize m ∧
    (m &&& Safety.modeOther = 0 → m &&& 0xFFDF#16 &&& Safety.modeOther = 0) := by
  have hon : modeOn (0xFFDF#16) = true := by decide
  have hpdsel : modePdsel (0xFFDF#16) = BitVec.allOnes 2 := by decide
  refine ⟨by rw [modeOn_and, hon, Bool.and_true], ?_, fun hm => ?_⟩
  · unfold unitSize; rw [modePdsel_and, hpdsel, BitVec.and_allOnes]
  · rw [BitVec.and_assoc, BitVec.and_comm 0xFFDF#16, ← BitVec.and_assoc, hm]; rfl

/-- What a line event keeps of MODE and TXF for the labels, and the peripheral's clauses. -/
theorem lineTurn_keeps (e : LineEvent) (hs : PeripheralInv s) :
    PeripheralInv (lineTurn Config.params e s) ∧ modeOn (lineTurn Config.params e s).mode = modeOn s.mode ∧
      unitSize (lineTurn Config.params e s).mode = unitSize s.mode ∧
      (modeOn s.mode = false → (lineTurn Config.params e s).mode = s.mode) ∧
      (lineTurn Config.params e s).txf.length ≤ s.txf.length := by
  obtain h | ⟨hguard, h⟩ := lineTurn_cases Config.params e s
  · rw [h]; exact ⟨hs, rfl, rfl, fun _ => rfl, le_rfl⟩
  rw [h]
  cases e with
  | rx data ferr perr =>
    simp only [lineEffect, receive]
    split_ifs with hroom
    · have hlen : (s.rxf ++ [receivedUnit s.mode data ferr perr]).length ≤ Config.params.rxDepth := by
        rw [List.length_append, List.length_singleton]; exact hroom
      exact ⟨hs.with_rxf hlen, rfl, rfl, fun _ => rfl, le_rfl⟩
    · exact ⟨hs, rfl, rfl, fun _ => rfl, le_rfl⟩
  | load =>
    obtain ⟨-, -, -, htxf⟩ := (lineEnabled_load_iff Config.params).1 hguard
    obtain ⟨unit, rest, hcons⟩ := List.exists_cons_of_ne_nil htxf
    have hlen : rest.length ≤ s.txf.length := by rw [hcons]; exact Nat.le_succ _
    simp only [lineEffect]
    rw [transmitLoad_cons hcons]
    exact ⟨hs.with_txf (hlen.trans hs.txf), rfl, rfl, fun _ => rfl, hlen⟩
  | done =>
    obtain ⟨record, hrecord⟩ := Option.ne_none_iff_exists'.1 ((lineEnabled_done_iff Config.params).1 hguard)
    simp only [lineEffect]
    rw [transmitDone_some hrecord]
    exact ⟨hs, rfl, rfl, fun _ => rfl, le_rfl⟩
  | autobaud brg =>
    obtain ⟨-, hon, -⟩ := (lineEnabled_autobaud_iff Config.params brg).1 hguard
    obtain ⟨hon', hsize, hother⟩ := autobaudComplete_mode s.mode
    simp only [lineEffect]
    rw [autobaudComplete_eq]
    exact ⟨hs.with_mode (hother hs.modeOther), hon', hsize, fun hoff => absurd (hon.symm.trans hoff) (by decide),
      le_rfl⟩

theorem lineTurn_inv (e : LineEvent) (hs : Inv s) : Inv (lineTurn Config.params e s) := by
  obtain ⟨hper, hon, hsize, hoff, htxf⟩ := lineTurn_keeps e ((inv_iff s).1 hs).1
  obtain ⟨hmem, hrxf, htxf', hbreak, hsta, hmode⟩ := hper
  have hframe := lineTurn_frame s Config.params e
  generalize lineTurn Config.params e s = t at *
  have hph : t.ph = s.ph := by rw [hframe]
  exact {
    mem := hmem, rxf := hrxf, txf := htxf', noBreak := hbreak, staOther := hsta, modeOther := hmode
    phase := by rw [hframe]; exact hs.phase
    faulted := by rw [hframe]; exact hs.faulted
    faultBits := by rw [hframe]; exact hs.faultBits
    result := by rw [hframe]; exact hs.result
    off := fun h => by rw [hon]; exact hs.off (hph ▸ h)
    readMode := fun h => by
      rw [hph] at h
      rw [modeImage, hoff (hs.off (by rw [h]; rfl)), hframe]
      exact hs.readMode h
    room := fun h => htxf.trans_lt (hs.room (hph ▸ h))
    width := fun h => by rw [hsize, hframe]; exact hs.width (hph ▸ h)
    baud := by rw [hframe]; exact hs.baud
    countStart := by rw [hframe]; exact hs.countStart
    countClear := by rw [hframe]; exact hs.countClear
    countPass := by rw [hframe]; exact hs.countPass
    countTest := by rw [hframe]; exact hs.countTest
    snap := by rw [hframe]; exact hs.snap }

/-! ## The host -/

theorem firstLabel_mem (i : Instr) : firstLabel i ∈ labelsOf i := by cases i <;> simp [firstLabel, labelsOf]

/-- What the first labels rely on is what acceptance gives: `k` is 0 for READ and WRITE (R210). -/
theorem labelFacts_firstLabel (h : isTransfer i = true → s.k = 0) : LabelFacts s (firstLabel i) := by
  cases i with
  | read | write => exact h rfl
  | initialise | serialSetup | errorGet | writeByte | readByte | txReady | rxReady | txComplete | autobaudQuery
  | autobaudSet => trivial

theorem accept_inv (W : Word) (hs : Inv s) (hidle : s.ph = .idle) : Inv (accept W s) := by
  obtain ⟨hper, -, -⟩ := (inv_iff s).1 hs
  have hzero := fault_eq_zero hs (by simp [hidle])
  cases hW : decode W with
  | illegal why =>
    rw [accept_illegal W s why hW]
    exact (inv_iff _).2 ⟨hper, ⟨.inl rfl, iff_of_false nofun (not_not.2 hzero), hs.faultBits, fun h => absurd rfl h⟩,
      trivial⟩
  | command i =>
    rw [accept_command W s i hW]
    exact (inv_iff _).2 ⟨hper, ⟨.inr (.inr ⟨i, hW, firstLabel_mem i⟩),
      iff_of_false (labelsOf_busy (firstLabel_mem i)).2 (not_not.2 hzero), hs.faultBits, fun _ => rfl⟩,
      labelFacts_firstLabel fun h => if_pos h⟩

theorem hostWrite_inv (off : Nat) (v : Word) (hs : Inv s) : Inv (hostWrite off v s) := by
  unfold hostWrite
  split_ifs
  · obtain ⟨hidle, h⟩ | ⟨-, h⟩ | ⟨hidle, -, h⟩ := writeCmd_cases v s <;> rw [h]
    · exact accept_inv v hs hidle
    · exact hs
    · exact inv_raise hs hidle (by decide)
  · exact (inv_iff _).2 ((inv_iff s).1 hs)
  · exact (inv_iff _).2 ((inv_iff s).1 hs)
  · exact hs

theorem hostWriteMem_inv (addr : Word) (v : Byte) (hs : Inv s) : Inv (hostWriteMem addr v s) := by
  obtain ⟨hper, hrest⟩ := (inv_iff s).1 hs
  have hwritten : Inv { s with mem := Memory.write s.mem addr.toNat v } :=
    (inv_iff _).2 ⟨hper.with_mem (Memory.write_wf _ _ _ addr.isLt hs.mem), hrest⟩
  obtain h | ⟨howned, h⟩ := hostWriteMem_cases addr v s <;> rw [h]
  · exact hwritten
  · exact inv_raise hwritten ((ownedByTransfer_iff s addr.toNat).1 howned).1 (by decide)

theorem hostTurn_inv (a : HostAction) (hs : Inv s) : Inv (hostTurn a s) := by
  cases a with
  | writePort off v => exact hostWrite_inv off v hs
  | writeMem addr v => exact hostWriteMem_inv addr v hs
  | pollBusy => simp only [hostTurn]; rw [pollBusy_frame]; exact (inv_iff _).2 ((inv_iff s).1 hs)
  | readPort | readMem => exact hs

/-! ## Reset, and any agent's turn -/

theorem inv_resetSignal (hmem : Memory.wf s.mem) : Inv (resetSignal s) :=
  (inv_iff _).2 ⟨⟨hmem, Nat.zero_le _, Nat.zero_le _, rfl, ⟨rfl, rfl⟩, by rw [resetSignal_mode]; rfl⟩,
    ⟨.inl rfl, iff_of_false nofun (not_not.2 rfl), by rw [resetSignal_fault]; rfl,
      fun h => absurd rfl h⟩, trivial⟩

theorem takeTurn_inv (turn : Turn) (hs : Inv s) : ∃ t, takeTurn turn s = .next t ∧ Inv t := by
  cases turn with
  | sequencer => exact sequencerTurn_inv hs
  | line e => exact ⟨_, rfl, lineTurn_inv e hs⟩
  | host a => exact ⟨_, rfl, hostTurn_inv a hs⟩
  | reset => exact ⟨_, rfl, inv_resetSignal hs.mem⟩

/-- From a state of the invariant there is a step, and it keeps the invariant. -/
theorem step_inv (hs : Inv s) : ∃ t, step s = .next t ∧ Inv t := by
  obtain ⟨turn, hturn⟩ := step_is_turn s
  rw [hturn]
  exact takeTurn_inv turn ((inv_iff _).2 ((inv_iff s).1 hs))

end

end Sys2Proof.Machine

open Sys2Proof.Machine

/-- Settles O3: the power-on state is what the reset signal gives of itself. -/
theorem resetMeetsInvariant : Obligations.ResetMeetsInvariant := by
  unfold Obligations.ResetMeetsInvariant
  exact inv_resetSignal (s := State.reset) Memory.wf_reset

/-- Settles O4: by `step_inv`, each agent's turn keeping the three parts of the invariant. -/
theorem stepKeepsInvariant : Obligations.StepKeepsInvariant := by
  unfold Obligations.StepKeepsInvariant
  intro s t hs h
  obtain ⟨u, hu, hinv⟩ := step_inv hs
  rw [hu] at h
  cases h
  exact hinv

/-- Settles O5: by `step_inv`, each command running at each of its labels (`exec_arrives`). -/
theorem invariantStatesAlwaysStep : Obligations.InvariantStatesAlwaysStep := by
  unfold Obligations.InvariantStatesAlwaysStep
  exact fun s hs => (step_inv hs).imp fun _ h => h.1

end

section
/-! PROOF. The run of a host program (30_encoding.md rule R112, 60_exceptions.md rule R211): its host writes CMD only
after a poll that read BUSY = 0, a property of the schedule that every step keeps. -/

namespace Sys2Proof.Machine

open Sys2Proof.Safety

/-! ## CMD_WHILE_BUSY through a step of a command -/

section
variable {P : Params} {i : Instr} {s t : State} {kind : FaultKind}

theorem mask_getLsbD_zero (h : kind ≠ .cmdWhileBusy) : kind.mask.getLsbD 0 = false := by
  cases kind with
  | cmdWhileBusy => exact absurd rfl h
  | misaligned | memRefused | abaudCleared | txOverflow | liveReconfig | hostBufferWrite => decide

theorem writeMode_error_kind {new : Half} (h : writeMode P new s = .error kind) : kind ≠ .cmdWhileBusy := by
  have hcheck : modeCheck s.mode new = some kind := by
    unfold writeMode at h
    split at h
    · next hsome => cases h; exact hsome
    · cases h
  unfold modeCheck at hcheck
  split_ifs at hcheck <;> cases hcheck <;> decide

/-- No register write raises CMD_WHILE_BUSY (R191, R211). -/
theorem regWrite_error_kind {r : Reg} {v : Word} (h : regWrite P r v s = .error kind) : kind ≠ .cmdWhileBusy := by
  cases r with
  | mode | modeClr | modeSet | modeInv => exact writeMode_error_kind h
  | sta | staClr | staSet | staInv | rxreg => cases h
  | brg =>
    simp only [regWrite, writeBrg] at h
    split_ifs at h
    cases h; decide
  | txreg =>
    simp only [regWrite, writeTxreg] at h
    split_ifs at h
    cases h; decide

theorem memCheck_kind {addr n : Nat} (h : memCheck P addr n = some kind) : kind ≠ .cmdWhileBusy := by
  unfold memCheck at h
  split_ifs at h <;> cases h <;> decide

theorem raise_fault_getLsbD_zero (h : kind ≠ .cmdWhileBusy) : (raise kind s).fault.getLsbD 0 = s.fault.getLsbD 0 := by
  rw [raise_fault, BitVec.getLsbD_or, mask_getLsbD_zero h, Bool.or_false]

theorem Internal.fault (h : Internal s t) : t.fault = s.fault := by rw [Internal] at h; rw [h]

theorem Effect.fault_getLsbD_zero (h : Effect P i s t) : t.fault.getLsbD 0 = s.fault.getLsbD 0 := by
  cases h with
  | internal h => rw [h.fault]
  | popped h => rw [h.fault, rxPop_fault]
  | written hw hu h => rw [h.fault, regWrite_fault P hu]
  | refused hw hk h => rw [h, raise_fault_getLsbD_zero (regWrite_error_kind hk)]
  | stored hi hph hsize hcheck h => rw [h]
  | bufferFault hk h => rw [h, raise_fault_getLsbD_zero (memCheck_kind hk)]

end

/-! ## Schedules whose host polls -/

/-- Every write to CMD in the schedule stands after a poll with no other write to CMD between them; `known` says that
such a poll has been made already. -/
def Polled : Bool → List Turn → Prop
  | _, [] => True
  | known, .host (.writePort off _) :: rest =>
    if off = offCmd then known = true ∧ Polled false rest else Polled known rest
  | _, .host .pollBusy :: rest => Polled true rest
  | known, _ :: rest => Polled known rest

section
variable {known : Bool} {rest : List Turn}

theorem polled_issueTurns (line : AsmLine) : Polled true (issueTurns line ++ rest) ↔ Polled false rest := by
  unfold issueTurns
  generalize line.assemble = written
  obtain ⟨W, opa, opb⟩ := written
  cases opa <;> cases opb <;> simp [Polled, offOpa, offOpb, offCmd]

theorem polled_meanwhile (steps : List Meanwhile) :
    Polled known (steps.map Meanwhile.turn ++ rest) ↔ Polled known rest := by
  induction steps with
  | nil => rfl
  | cons step steps ih => cases step <;> exact ih

theorem polled_events (es : List LineEvent) : Polled known (es.map Turn.line ++ rest) ↔ Polled known rest := by
  induction es with
  | nil => rfl
  | cons e es ih => exact ih

/-- Every line of a program starts from a poll and leaves one behind its write to CMD (R112). -/
theorem polled_line (line : HostLine) : Polled true (line.turns ++ rest) ↔ Polled true rest := by
  cases line with
  | command line meanwhile =>
    simp only [HostLine.turns, List.append_assoc]
    rw [polled_issueTurns, polled_meanwhile]
    rfl
  | events es => exact polled_events es
  | word w => simp [HostLine.turns, Polled]

end

theorem polled_programTurns (program : List HostLine) : Polled true (programTurns program) := by
  induction program with
  | nil => trivial
  | cons line program ih => rw [programTurns_cons, polled_line]; exact ih

/-! ## Every step keeps it -/

/-- FAULT bit 0 is clear, and the schedule's host polls, having read BUSY = 0 only in IDLE. -/
def NeverBusy (s : State) : Prop :=
  s.fault.getLsbD 0 = false ∧ ∃ known, Polled known s.turns ∧ (known = true → s.ph = .idle)

section
variable {s t : State} {known : Bool}

/-- A turn that keeps the schedule, FAULT bit 0 and IDLE keeps the property. -/
theorem NeverBusy.of_kept (hbit : s.fault.getLsbD 0 = false) (hpolled : Polled known s.turns)
    (hknown : known = true → s.ph = .idle) (hturns : t.turns = s.turns)
    (hfault : t.fault.getLsbD 0 = s.fault.getLsbD 0) (hph : s.ph = .idle → t.ph = .idle) : NeverBusy t :=
  ⟨hfault.trans hbit, known, hturns ▸ hpolled, fun h => hph (hknown h)⟩

theorem sequencerTurn_neverBusy (h : sequencerTurn s = .next t) (hbit : s.fault.getLsbD 0 = false)
    (hpolled : Polled known s.turns) (hknown : known = true → s.ph = .idle) : NeverBusy t := by
  have hidle : s.ph = .idle → t.ph = .idle := fun hidle => by
    rw [sequencerTurn_idle s hidle] at h; cases h; exact hidle
  obtain rfl | ⟨i, -, heffect⟩ := sequencerTurn_effect h
  · exact ⟨hbit, known, hpolled, hknown⟩
  · exact .of_kept hbit hpolled hknown (by rw [heffect.frame]) heffect.fault_getLsbD_zero hidle

/-- A write to CMD after such a poll finds IDLE, so that it is accepted. -/
theorem writeCmd_neverBusy (W : Word) (hbit : s.fault.getLsbD 0 = false) (hpolled : Polled false s.turns)
    (hidle : s.ph = .idle) : NeverBusy (writeCmd W s) := by
  obtain ⟨-, h⟩ | ⟨h, -⟩ | ⟨h, -⟩ := writeCmd_cases W s
  · rw [h]
    refine ⟨by rw [accept_fault, hbit], false, ?_, nofun⟩
    rw [accept_frame]
    exact hpolled
  · rw [hidle] at h; cases h
  · exact absurd hidle h

theorem hostWriteMem_neverBusy (addr : Word) (v : Byte) (hbit : s.fault.getLsbD 0 = false)
    (hpolled : Polled known s.turns) (hknown : known = true → s.ph = .idle) : NeverBusy (hostWriteMem addr v s) := by
  obtain h | ⟨howned, h⟩ := hostWriteMem_cases addr v s <;> rw [h]
  · exact ⟨hbit, known, hpolled, hknown⟩
  · exact .of_kept hbit hpolled hknown rfl (raise_fault_getLsbD_zero (s := s) (by decide))
      fun hidle => absurd hidle ((ownedByTransfer_iff s addr.toNat).1 howned).1

/-- A poll in IDLE goes on, known; at a label or in FAULTED it is put off behind a step of the sequencer. -/
theorem pollBusy_neverBusy (hbit : s.fault.getLsbD 0 = false) (hpolled : Polled true s.turns) :
    NeverBusy (pollBusy s) := by
  by_cases hidle : s.ph = .idle
  · rw [pollBusy_idle s hidle]
    exact ⟨hbit, true, hpolled, fun _ => hidle⟩
  · rw [pollBusy_busy s hidle]
    exact ⟨hbit, false, hpolled, nofun⟩

/-- The turn at the head of the schedule, taken on the state with the turn off the schedule. -/
theorem takeTurn_neverBusy {turn : Turn} (h : takeTurn turn s = .next t) (hbit : s.fault.getLsbD 0 = false)
    (hpolled : Polled known (turn :: s.turns)) (hknown : known = true → s.ph = .idle) : NeverBusy t := by
  cases turn with
  | sequencer => exact sequencerTurn_neverBusy h hbit hpolled hknown
  | line e => cases h; rw [lineTurn_frame]; exact ⟨hbit, known, hpolled, hknown⟩
  | reset => cases h; exact ⟨by rw [resetSignal_fault]; rfl, known, hpolled, fun _ => rfl⟩
  | host a =>
    cases h
    cases a with
    | writePort off v =>
      simp only [Polled] at hpolled
      simp only [hostTurn, hostWrite]
      split_ifs at hpolled ⊢
      · exact writeCmd_neverBusy v hbit hpolled.2 (hknown hpolled.1)
      all_goals exact ⟨hbit, known, hpolled, hknown⟩
    | writeMem addr v => exact hostWriteMem_neverBusy addr v hbit hpolled hknown
    | pollBusy => exact pollBusy_neverBusy hbit hpolled
    | readPort | readMem => exact ⟨hbit, known, hpolled, hknown⟩

theorem step_neverBusy (h : step s = .next t) (hs : NeverBusy s) : NeverBusy t := by
  obtain ⟨hbit, known, hpolled, hknown⟩ := hs
  cases hturns : s.turns with
  | nil =>
    rw [step_nil s hturns] at h
    exact sequencerTurn_neverBusy h hbit hpolled hknown
  | cons turn rest =>
    rw [step_cons s turn rest hturns] at h
    exact takeTurn_neverBusy (s := { s with turns := rest }) h hbit (hturns ▸ hpolled) hknown

theorem run_neverBusy {n : Nat} (h : runSteps step n s = .next t) (hs : NeverBusy s) : NeverBusy t := by
  induction n generalizing s with
  | zero => cases h; exact hs
  | succ n ih =>
    cases hstep : step s with
    | next u => rw [runSteps_succ hstep] at h; exact ih h (step_neverBusy hstep hs)
    | fault | refused => simp only [runSteps, hstep] at h; cases h

end

end Sys2Proof.Machine

open Sys2Proof.Machine

/-- Settles O60: a program's schedule polls before every write to CMD, which every step keeps (`step_neverBusy`). -/
theorem pollingHostNeverFaultsBusy : Obligations.PollingHostNeverFaultsBusy := by
  unfold Obligations.PollingHostNeverFaultsBusy
  intro program s hidle hbit n t h
  exact (run_neverBusy h ⟨hbit, true, polled_programTurns program, fun _ => hidle⟩).1

end
